-- ==== Sys2Proof/Word.lean ====
section
/-! DEFINITION. The word types of the block: spec/00_scope.md R6 (words are 32 bits, all values are unsigned bit
vectors). -/

namespace Sys2Proof

/-- A word: 32 bits, bit 31 most significant (R6). Cells, offsets, bus addresses, data and masks are words. -/
abbrev Word := BitVec 32

/-- One byte lane of a word (R6). -/
abbrev Byte := BitVec 8

/-- A two-byte value (R44). -/
abbrev Half := BitVec 16

/-- A priority level, 0 to 7, unsigned (R6, R20, R24). -/
abbrev Level := BitVec 3

/-- A byte-lane offset, 0 to 3 (R41). -/
abbrev Lane := BitVec 2

end Sys2Proof
end

