-- ==== Sys2Proof/Config.lean ====
section
/-! DEFINITION. What an implementation of the block fixes before power-on: the Register Descriptor Table
(spec/10_state.md R14) and the named parameters of spec/00_scope.md R5; and the one value the spec leaves open for
good (`Config.freeArbCount`). The parameters are configuration: they are not state of the block and no transaction
changes them (R5, R13). The model carries them in State as plain data so that a statement can hold for every
configuration (log entry 1). -/

namespace Sys2Proof

/-- A descriptor's access policy (R14): read-write, read-only, write-only, write-triggers-sideeffect. -/
inductive Policy where
  | rw | ro | wo | wse
deriving DecidableEq, Repr

/-- What a read of a CLR, SET or INV alias does (R14, R86 to R88; 90_conflicts.md C1). -/
inductive AliasRead where
  | base | zero | disallowed
deriving DecidableEq, Repr

/-- What the block itself does with a register (R14, R17). -/
inductive Role where
  | plain
  | ifs (k : Nat)
  | iec (k : Nat)
  | ipc (k : Nat)
  | stat
  | key
  | rswrst
  | off (k : Nat)
deriving DecidableEq, Repr

/-- A hook identifier: one element of the parameter HOOKS (R5, R170). -/
abbrev HookId := String

/-- One entry of the Register Descriptor Table (R14). -/
structure Descriptor where
  /-- word-aligned window offset of the assign view and of the cell -/
  base : Word
  /-- semantic name, used only in log and fatal reports -/
  name : String
  policy : Policy
  /-- the register has CLR, SET, INV views at base+0x4, +0x8, +0xC -/
  hasAlias : Bool
  /-- meaningful only when `hasAlias` -/
  aliasRead : AliasRead
  /-- bits the bus may change -/
  wmask : Word
  /-- bits of `wmask` that change only when the unlock state is Stage2 -/
  protmask : Word
  /-- bits forced to a constant in the value a read returns -/
  rforceMask : Word
  /-- the constant those bits are forced to -/
  rforceVal : Word
  /-- a read's visible effect on another cell: (target offset, clear mask) -/
  rside : Option (Word × Word)
  /-- read hook: an event sent to a peripheral on a read -/
  rhook : Option HookId
  /-- write hook: an event sent to a peripheral on a write -/
  whook : Option HookId
  role : Role
deriving DecidableEq, Repr

/-- The named parameters of the block (R5). -/
structure Config where
  /-- WINDOW_SIZE, in bytes -/
  windowSize : Nat
  /-- WINDOW_BASE: never used by the block, which masks the address (R5, R41) -/
  windowBase : Word
  /-- N, the number of interrupt sources -/
  numSources : Nat
  /-- IFS_OFF(k) for k = 0 .. NBANK-1 -/
  ifsOff : List Word
  /-- IEC_OFF(k) for k = 0 .. NBANK-1 -/
  iecOff : List Word
  /-- IPC_OFF(k) for k = 0 .. NIPC-1 -/
  ipcOff : List Word
  /-- STAT_OFF -/
  statOff : Word
  /-- KEY_OFF -/
  keyOff : Word
  /-- RSWRST_OFF -/
  rswrstOff : Word
  /-- RESET_TRIGGER_MASK -/
  resetTriggerMask : Word
  /-- IPL_LSB -/
  iplLsb : Nat
  /-- ISL_LSB -/
  islLsb : Nat
  /-- STAT_VEC_LSB -/
  statVecLsb : Nat
  /-- STAT_VEC_W -/
  statVecW : Nat
  /-- STAT_PRI_LSB -/
  statPriLsb : Nat
  /-- ARB_LEVEL0_WINS -/
  arbLevel0Wins : Bool
  /-- MAGIC1, the first unlock word -/
  magic1 : Word
  /-- MAGIC2, the second unlock word -/
  magic2 : Word
  /-- DESC_TABLE -/
  descTable : List Descriptor
  /-- RESET_PATTERN: (base offset, power-on value) -/
  resetPattern : List (Word × Word)
  /-- HOOKS -/
  hooks : List HookId
  /-- SOURCE_ID: the numbered table of interrupt sources -/
  sourceId : List (Nat × String)
deriving DecidableEq, Repr

/-- The value of `arb_count` after a power-on reset, which the spec does not specify (R21, R32;
93_implementation_defined.md U15 "any value"). It has no body: nothing in Lean can evaluate it. The argument is the
draw number held in State (log entry 6, a FREE VALUE). -/
opaque Config.freeArbCount : Nat → Nat

end Sys2Proof
end

