-- ==== Sys2Proof/Syntax.lean ====
section
/-! DEFINITION. The operations of the block, one constructor of `Instr` per row of spec/opcode_table.json (R69), and
the words they are written with: widths (R44), the 2-bit operation code (R62), directions (R60), reset kinds (R221),
read values (R45, R66) and the packet a transaction arrives in (log entry 3). -/

namespace Sys2Proof

/-- Access width (R44): 1, 2 or 4 bytes. -/
inductive Width where
  | byte | half | word
deriving DecidableEq, Repr

/-- The 2-bit operation code of the Write-Operation Decoder (R62): ASSIGN 0, CLR 1, SET 2, INV 3. -/
inductive OpCode where
  | assign | clr | set | inv
deriving DecidableEq, Repr

/-- Direction of a bus transaction (R60). -/
inductive Dir where
  | read | write
deriving DecidableEq, Repr

/-- The kind of a full reset (R221). -/
inductive ResetKind where
  | por | soft
deriving DecidableEq, Repr

/-- A value of 8 * width bits, as a read returns it (R45, R66). -/
inductive Value where
  | byte (v : Byte)
  | half (v : Half)
  | word (v : Word)
deriving DecidableEq, Repr

/-- A transaction in transit: thirteen bytes held as one number, byte 0 in bits 7:0. Bits 4:0 hold SEL, PSEL or SSEL
(R63 to R65), bits 6:5 the port (0 BUS, 1 PER, 2 SYS), bit 7 is zero, and three operand words follow, each with its
least significant byte first. The spec has no wire encoding (R60, R63); the layout is the model's (log entry 3). -/
abbrev Packet := BitVec 104

/-- The operations of R69. Bus operands: `address` includes the lane (R72); `value` is a word of which a write uses the
low 8 * width bits (R45). -/
inductive Instr where
  -- reads of a base address (R89, R90, R91)
  | rdB (address : Word)
  | rdH (address : Word)
  | rdW (address : Word)
  -- 1-byte reads of an alias (R92)
  | rdcB (address : Word)
  | rdsB (address : Word)
  | rdiB (address : Word)
  -- 2-byte reads of an alias (R93)
  | rdcH (address : Word)
  | rdsH (address : Word)
  | rdiH (address : Word)
  -- 4-byte reads of an alias (R94)
  | rdcW (address : Word)
  | rdsW (address : Word)
  | rdiW (address : Word)
  -- assign writes (R107, R108, R109)
  | wrB (address value : Word)
  | wrH (address value : Word)
  | wrW (address value : Word)
  -- atomic clears (R110, R111, R112)
  | wrcB (address value : Word)
  | wrcH (address value : Word)
  | wrcW (address value : Word)
  -- atomic sets (R113, R114, R115)
  | wrsB (address value : Word)
  | wrsH (address value : Word)
  | wrsW (address value : Word)
  -- atomic inverts (R116, R117, R118)
  | wriB (address value : Word)
  | wriH (address value : Word)
  | wriW (address value : Word)
  -- the peripheral port (R135, R136, R171)
  | raise (id : Word)
  | clear (id : Word)
  | push (off value mask : Word)
  -- operations no port carries as data (R220, R134, R221)
  | por
  | arb
  | fullreset (kind : ResetKind)
deriving DecidableEq, Repr

end Sys2Proof
end

