-- ==== Sys2Proof/Machine/Operands.lean ====
section
/-! DEFINITION. Operand forms of the bus operations: the address split (R41, R61), lanes and widths (R43 to R45, R67),
the Register Descriptor Table lookup (R15), the operand word and the Write-Operation Decoder (R102, R103), the write
mask (R105) and constant forcing (R82). -/

namespace Sys2Proof.Machine

/-- The number of bytes of a width (R44). -/
def widthBytes : Width → Nat
  | .byte => 1
  | .half => 2
  | .word => 4

/-- `off = address & (WINDOW_SIZE - 1)` (R41). -/
def windowOff (c : Config) (address : Word) : Word :=
  address &&& BitVec.ofNat 32 (c.windowSize - 1)

/-- `woff = off & ~3`, the cell (R41). -/
def wordOff (c : Config) (address : Word) : Word :=
  windowOff c address &&& 0xFFFFFFFC#32

/-- `lane = off[1:0]` (R41). -/
def laneOf (c : Config) (address : Word) : Lane :=
  (windowOff c address).setWidth 2

/-- An access is contained when lane + width <= 4 (R44). -/
def contained (w : Width) (lane : Lane) : Bool :=
  decide (lane.toNat + widthBytes w ≤ 4)

/-- `wmaskw(width)` (R67). -/
def widthMask : Width → Word
  | .byte => 0x000000FF#32
  | .half => 0x0000FFFF#32
  | .word => 0xFFFFFFFF#32

/-- `lmask(width, lane)`, the lanes accessed (R67). -/
def laneMask (w : Width) (lane : Lane) : Word :=
  widthMask w <<< (8 * lane.toNat)

/-- `opnd(value, width, lane)`: the low 8 * width bits of the value in their lanes, 0 elsewhere (R67). -/
def opnd (value : Word) (w : Width) (lane : Lane) : Word :=
  (value &&& widthMask w) <<< (8 * lane.toNat)

/-- `sel(word, width, lane)`: the value a read returns (R67). -/
def sel (x : Word) (w : Width) (lane : Lane) : Value :=
  match w with
  | .byte => .byte ((x >>> (8 * lane.toNat)).setWidth 8)
  | .half => .half ((x >>> (8 * lane.toNat)).setWidth 16)
  | .word => .word (x >>> (8 * lane.toNat))

/-- The value 0 of a width (R87). -/
def zeroValue : Width → Value
  | .byte => .byte 0#8
  | .half => .half 0#16
  | .word => .word 0#32

/-- `lookup(o)` (R15): the descriptor whose view sits at the word-aligned offset `o`, and the operation code of that
view. -/
def lookup (c : Config) (o : Word) : Option (Descriptor × OpCode) :=
  match c.descTable.find? (fun d => o == d.base) with
  | some d => some (d, .assign)
  | none =>
    match c.descTable.find? (fun d => d.hasAlias && (o == d.base + 0x4#32)) with
    | some d => some (d, .clr)
    | none =>
      match c.descTable.find? (fun d => d.hasAlias && (o == d.base + 0x8#32)) with
      | some d => some (d, .set)
      | none =>
        match c.descTable.find? (fun d => d.hasAlias && (o == d.base + 0xC#32)) with
        | some d => some (d, .inv)
        | none => none

/-- The lookup a bus transaction makes with its address (R80, R100). -/
def busLookup (c : Config) (address : Word) : Option (Descriptor × OpCode) :=
  lookup c (wordOff c address)

/-- Stage 3b of a read, constant forcing: `(w & ~rforce_mask) | rforce_val` (R82). -/
def forced (d : Descriptor) (x : Word) : Word :=
  (x &&& ~~~ d.rforceMask) ||| d.rforceVal

/-- Stage 4b of a write, the operand word `m` (R102): an assign merges the lanes into the old word, an alias view
supplies zeros outside them (90_conflicts.md C2). -/
def operandWord (op : OpCode) (old value : Word) (w : Width) (lane : Lane) : Word :=
  match op with
  | .assign => (old &&& ~~~ laneMask w lane) ||| opnd value w lane
  | .clr => opnd value w lane
  | .set => opnd value w lane
  | .inv => opnd value w lane

/-- Stage 4c, the Write-Operation Decoder (R62, R103). -/
def decodeWriteOp (op : OpCode) (old m : Word) : Word :=
  match op with
  | .assign => m
  | .clr => old &&& ~~~ m
  | .set => old ||| m
  | .inv => old ^^^ m

/-- Stage 4e: the write mask is applied after the Write-Operation Decoder (R105). -/
def applyMask (eff cand old : Word) : Word :=
  (cand &&& eff) ||| (old &&& ~~~ eff)

/-- The roles a peripheral may push to (R171): PLAIN and OFF(k). -/
def pushable : Role → Bool
  | .plain => true
  | .off _ => true
  | .ifs _ => false
  | .iec _ => false
  | .ipc _ => false
  | .stat => false
  | .key => false
  | .rswrst => false

/-- The roles whose write re-arbitrates (R106, R130): IFS(k), IEC(k), IPC(k). -/
def isInterruptRole : Role → Bool
  | .ifs _ => true
  | .iec _ => true
  | .ipc _ => true
  | .plain => false
  | .off _ => false
  | .stat => false
  | .key => false
  | .rswrst => false

/-- NBANK = ceil(N / 32) (R5). -/
def numBanks (c : Config) : Nat := (c.numSources + 31) / 32

/-- NIPC = ceil(N / 4) (R5). -/
def numIpcs (c : Config) : Nat := (c.numSources + 3) / 4

/-- IFS_OFF(k) (R5, R17). Under a well-formed configuration `k` is in range wherever the block asks. -/
def ifsOffset (c : Config) (k : Nat) : Word := c.ifsOff.getD k 0#32

/-- IEC_OFF(k) (R5, R17). -/
def iecOffset (c : Config) (k : Nat) : Word := c.iecOff.getD k 0#32

/-- IPC_OFF(k) (R5, R17). -/
def ipcOffset (c : Config) (k : Nat) : Word := c.ipcOff.getD k 0#32

end Sys2Proof.Machine
end

