-- ==== Sys2Proof/Machine/TableRules.lean ====
section
/-! DEFINITION. When a configuration is well formed: the constraints on the parameters (spec/00_scope.md R5,
93_implementation_defined.md G2) and on the Register Descriptor Table (spec/10_state.md R16, R17). A configuration that is
not well formed is outside the spec (R16, U16): statements take `wellFormedConfig` as a premise. -/

namespace Sys2Proof.Machine

/-- The window offsets of a descriptor's views (R16 item 3). -/
def footprint (d : Descriptor) : List Word :=
  if d.hasAlias then [d.base, d.base + 0x4#32, d.base + 0x8#32, d.base + 0xC#32] else [d.base]

/-- R16 item 3, for two entries of the table. -/
def disjointFootprints (d e : Descriptor) : Bool :=
  (footprint d).all (fun o => !(footprint e).contains o)

/-- R16 items 1 and 2: where a base may stand. -/
def baseOk (c : Config) (d : Descriptor) : Bool :=
  d.base.toNat % 4 == 0 && decide (d.base.toNat < c.windowSize) && (!d.hasAlias || d.base.toNat % 16 == 0)

/-- R16 items 4 and 5: masks and policies that go together. -/
def masksOk (d : Descriptor) : Bool :=
  d.protmask &&& ~~~ d.wmask == 0#32 && d.rforceVal &&& ~~~ d.rforceMask == 0#32 &&
  (d.policy != .wse || d.whook.isSome) &&
  (d.policy != .wo || (d.rhook.isNone && d.rside.isNone && d.rforceMask == 0#32 &&
    (!d.hasAlias || d.aliasRead != .base)))

/-- R16 item 6, and hooks are named in HOOKS (R5, R14). DESIGN CHOICE (log entry 19): a PLAIN register may name its own
base as its read side target. R14 and R95 speak of another cell, R16 item 6 does not exclude the register's own: the model
accepts such a table, and a read of it then clears the mask in the register itself, after its value was taken. -/
def hooksOk (c : Config) (d : Descriptor) : Bool :=
  (match d.rside with
    | none => true
    | some (t, _) => c.descTable.any (fun e => e.base == t && e.role == .plain)) &&
  (match d.rhook with
    | none => true
    | some h => c.hooks.contains h) &&
  (match d.whook with
    | none => true
    | some h => c.hooks.contains h)

/-- No constant forcing, no read side effect, no read hook (R17; the three read fields of R14). -/
def noReadEffects (d : Descriptor) : Bool :=
  d.rforceMask == 0#32 && d.rside.isNone && d.rhook.isNone

/-- The constraints R17 puts on IFS, IEC and IPC registers. -/
def interruptRegOk (d : Descriptor) : Bool :=
  d.policy == .rw && d.protmask == 0#32 && noReadEffects d && d.whook.isNone

/-- R17, row by row. DESIGN CHOICE (log entry 22): no condition on the k of OFF(k), which need not be below N, and which
several registers may bear. -/
def roleOk (c : Config) (d : Descriptor) : Bool :=
  match d.role with
  | .plain => true
  | .off _ => true
  | .ifs k => decide (k < numBanks c) && d.base == ifsOffset c k && interruptRegOk d
  | .iec k => decide (k < numBanks c) && d.base == iecOffset c k && interruptRegOk d
  | .ipc k => decide (k < numIpcs c) && d.base == ipcOffset c k && interruptRegOk d
  | .stat => d.base == c.statOff && d.policy == .ro && !d.hasAlias && noReadEffects d
  | .key => d.base == c.keyOff && d.policy == .rw && d.wmask == 0xFFFFFFFF#32 && d.protmask == 0#32 &&
      noReadEffects d && d.whook.isNone
  | .rswrst => d.base == c.rswrstOff && (d.policy == .rw || d.policy == .wse) && d.protmask == d.wmask &&
      d.wmask &&& c.resetTriggerMask == c.resetTriggerMask

/-- One entry of the table is well formed (R16 items 1, 2, 4, 5, 6; R17). -/
def descriptorOk (c : Config) (d : Descriptor) : Bool :=
  baseOk c d && masksOk d && hooksOk c d && roleOk c d

/-- Some entry of the table has this role. -/
def hasRole (c : Config) (r : Role) : Bool :=
  c.descTable.any (fun d => d.role == r)

/-- R16 item 7: the roles the block needs are present. (Each once: two entries of one role would share a base, by R17,
and bases are disjoint, by item 3.) -/
def rolesPresent (c : Config) : Bool :=
  (List.range (numBanks c)).all (fun k => hasRole c (.ifs k) && hasRole c (.iec k)) &&
  (List.range (numIpcs c)).all (fun k => hasRole c (.ipc k)) &&
  hasRole c .stat && hasRole c .key && hasRole c .rswrst

/-- Constraints on the numeric parameters (R5, R26, G2). That the window has at most 2^32 bytes goes with the model's
32-bit addresses (log entry 4); that the fields of STAT lie inside the word, apart from each other, is DEDUCED from R26
(log entry 13). DESIGN CHOICE (log entry 20): no condition on RESET_TRIGGER_MASK, so it may be 0, a block whose soft reset
never triggers, or have several bits. DESIGN CHOICE (log entry 21): SOURCE_ID may list a number twice, 0 included, or
leave one out; that it lists 0 as the timer tick is R179, that its numbers are below N is DEDUCED. -/
def parametersOk (c : Config) : Bool :=
  (List.range 33).any (fun k => c.windowSize == 2 ^ k) && c.windowSize % 16 == 0 &&
  decide (1 ≤ c.numSources) && decide (c.numSources ≤ 256) &&
  c.ifsOff.length == numBanks c && c.iecOff.length == numBanks c && c.ipcOff.length == numIpcs c &&
  decide (c.iplLsb ≤ 5) && decide (c.islLsb ≤ 6) &&
  (decide (c.iplLsb + 3 ≤ c.islLsb) || decide (c.islLsb + 2 ≤ c.iplLsb)) &&
  decide (c.statVecLsb + c.statVecW ≤ 32) && decide (c.statPriLsb + 3 ≤ 32) &&
  (decide (c.statVecLsb + c.statVecW ≤ c.statPriLsb) || decide (c.statPriLsb + 3 ≤ c.statVecLsb)) &&
  decide (c.numSources ≤ 2 ^ c.statVecW) &&
  c.sourceId.contains (0, "timer tick") && c.sourceId.all (fun p => decide (p.1 < c.numSources))

/-- RESET_PATTERN is a map whose every key is the base offset of a descriptor (R5, R221). -/
def resetPatternOk (c : Config) : Bool :=
  c.resetPattern.all (fun p => c.descTable.any (fun d => d.base == p.1)) &&
  decide ((c.resetPattern.map (fun p => p.1)).Pairwise (fun a b => a ≠ b))

/-- The configuration is one the spec speaks of (R5, R16, R17, R221). -/
def wellFormedConfig (c : Config) : Bool :=
  parametersOk c && c.descTable.all (descriptorOk c) &&
  decide (c.descTable.Pairwise (fun d e => disjointFootprints d e = true)) && rolesPresent c && resetPatternOk c

end Sys2Proof.Machine
end

