-- ==== Sys2Proof/WellFormed.lean ====
section
/-! DEFINITION. When an operation is one the spec gives a meaning to, under a configuration: its access is contained in
one word (spec/20_memory.md R44), the letter of its mnemonic agrees with the lookup of its address (spec/30_encoding.md
R72), a source identifier is below N (R64), a push goes to the base of a PLAIN or OFF register (R171). -/

namespace Sys2Proof

/-- The access touches exactly one cell (R44). -/
def accessContained (c : Config) (w : Width) (address : Word) : Bool :=
  Machine.contained w (Machine.laneOf c address)

/-- The letter after RD or WR agrees with the lookup of the address (R72). -/
def letterAgrees (c : Config) (op : OpCode) (address : Word) : Bool :=
  match Machine.busLookup c address with
  | some (_, op') => op == op'
  | none => false

/-- A bus operation is well formed: contained, and its letter agrees. -/
def busOk (c : Config) (w : Width) (op : OpCode) (address : Word) : Bool :=
  accessContained c w address && letterAgrees c op address

/-- A source identifier is an index of a source (R64). -/
def sourceOk (c : Config) (id : Word) : Bool :=
  decide (id.toNat < c.numSources)

/-- A push target is the base offset of a PLAIN or OFF descriptor (R171). -/
def pushTargetOk (c : Config) (off : Word) : Bool :=
  match Machine.lookup c off with
  | some (d, .assign) => Machine.pushable d.role
  | some (_, .clr) => false
  | some (_, .set) => false
  | some (_, .inv) => false
  | none => false

/-- The operation is well formed under the configuration. -/
def wellFormed (c : Config) (i : Instr) : Bool :=
  match i with
  | .rdB a => busOk c .byte .assign a
  | .rdH a => busOk c .half .assign a
  | .rdW a => busOk c .word .assign a
  | .rdcB a => busOk c .byte .clr a
  | .rdsB a => busOk c .byte .set a
  | .rdiB a => busOk c .byte .inv a
  | .rdcH a => busOk c .half .clr a
  | .rdsH a => busOk c .half .set a
  | .rdiH a => busOk c .half .inv a
  | .rdcW a => busOk c .word .clr a
  | .rdsW a => busOk c .word .set a
  | .rdiW a => busOk c .word .inv a
  | .wrB a _ => busOk c .byte .assign a
  | .wrH a _ => busOk c .half .assign a
  | .wrW a _ => busOk c .word .assign a
  | .wrcB a _ => busOk c .byte .clr a
  | .wrcH a _ => busOk c .half .clr a
  | .wrcW a _ => busOk c .word .clr a
  | .wrsB a _ => busOk c .byte .set a
  | .wrsH a _ => busOk c .half .set a
  | .wrsW a _ => busOk c .word .set a
  | .wriB a _ => busOk c .byte .inv a
  | .wriH a _ => busOk c .half .inv a
  | .wriW a _ => busOk c .word .inv a
  | .raise id => sourceOk c id
  | .clear id => sourceOk c id
  | .push off _ _ => pushTargetOk c off
  | .por => true
  | .arb => true
  | .fullreset _ => true

end Sys2Proof
end

