-- ==== Sys2Proof/Decode.lean ====
section
/-! DEFINITION. From a packet to an operation and back. The selector numbers are those of spec/30_encoding.md R63 (SEL),
R64 (PSEL) and R65 (SSEL), as spec/opcode_table.json lists them; their place in a packet is the model's (log entry 3).
Decoding is total and rejects by name. -/

namespace Sys2Proof

/-- Why a packet is no operation. -/
inductive DecodeError where
  /-- a bus selector whose width code is 3, "not a width" (R63): a bus access of a width other than 1, 2, 4 (R44) -/
  | badWidth
  /-- PSEL or SSEL 3, or a port number 3: not an operation (R64, R65) -/
  | notAnOperation
  /-- a bit the packet's layout keeps zero is set (log entry 3) -/
  | reservedBits
deriving DecidableEq, Repr

/-- Byte 0 of a packet: selector and port. -/
def packetHeader (p : Packet) : BitVec 8 := p.extractLsb' 0 8

/-- The first operand word. -/
def packetA (p : Packet) : Word := p.extractLsb' 8 32

/-- The second operand word. -/
def packetB (p : Packet) : Word := p.extractLsb' 40 32

/-- The third operand word. -/
def packetC (p : Packet) : Word := p.extractLsb' 72 32

/-- An operation with no operand: every operand word is zero. -/
def noOperand (a b c : Word) (i : Instr) : Except DecodeError Instr :=
  if a = 0#32 ∧ b = 0#32 ∧ c = 0#32 then .ok i else .error .reservedBits

/-- An operation with one operand word: the others are zero. -/
def oneOperand (b c : Word) (i : Instr) : Except DecodeError Instr :=
  if b = 0#32 ∧ c = 0#32 then .ok i else .error .reservedBits

/-- An operation with two operand words: the third is zero. -/
def twoOperands (c : Word) (i : Instr) : Except DecodeError Instr :=
  if c = 0#32 then .ok i else .error .reservedBits

/-- FULLRESET's operand, the kind: 0 por, 1 soft (log entry 3). -/
def decodeKind (a b c : Word) : Except DecodeError Instr :=
  if b = 0#32 ∧ c = 0#32 then
    if a = 0#32 then .ok (.fullreset .por)
    else if a = 1#32 then .ok (.fullreset .soft)
    else .error .reservedBits
  else .error .reservedBits

/-- Which name a header that is no row of the table is rejected by. -/
def rejectHeader (h : BitVec 8) : DecodeError :=
  if h.extractLsb' 7 1 = 1#1 then .reservedBits
  else if h.extractLsb' 5 2 = 0#2 then .badWidth
  else if h.extractLsb' 2 3 = 0#3 then .notAnOperation
  else if h.extractLsb' 5 2 = 3#2 then .notAnOperation
  else .reservedBits

/-- The operation map of R69: header numbers 0x00 to 0x1B are SEL on the bus port, 0x20 to 0x22 PSEL on the peripheral
port, 0x40 to 0x42 SSEL on the system port. -/
def decode (p : Packet) : Except DecodeError Instr :=
  match (packetHeader p).toNat with
  | 0x00 => oneOperand (packetB p) (packetC p) (.rdB (packetA p))
  | 0x01 => oneOperand (packetB p) (packetC p) (.rdcB (packetA p))
  | 0x02 => oneOperand (packetB p) (packetC p) (.rdsB (packetA p))
  | 0x03 => oneOperand (packetB p) (packetC p) (.rdiB (packetA p))
  | 0x04 => oneOperand (packetB p) (packetC p) (.rdH (packetA p))
  | 0x05 => oneOperand (packetB p) (packetC p) (.rdcH (packetA p))
  | 0x06 => oneOperand (packetB p) (packetC p) (.rdsH (packetA p))
  | 0x07 => oneOperand (packetB p) (packetC p) (.rdiH (packetA p))
  | 0x08 => oneOperand (packetB p) (packetC p) (.rdW (packetA p))
  | 0x09 => oneOperand (packetB p) (packetC p) (.rdcW (packetA p))
  | 0x0A => oneOperand (packetB p) (packetC p) (.rdsW (packetA p))
  | 0x0B => oneOperand (packetB p) (packetC p) (.rdiW (packetA p))
  | 0x10 => twoOperands (packetC p) (.wrB (packetA p) (packetB p))
  | 0x11 => twoOperands (packetC p) (.wrcB (packetA p) (packetB p))
  | 0x12 => twoOperands (packetC p) (.wrsB (packetA p) (packetB p))
  | 0x13 => twoOperands (packetC p) (.wriB (packetA p) (packetB p))
  | 0x14 => twoOperands (packetC p) (.wrH (packetA p) (packetB p))
  | 0x15 => twoOperands (packetC p) (.wrcH (packetA p) (packetB p))
  | 0x16 => twoOperands (packetC p) (.wrsH (packetA p) (packetB p))
  | 0x17 => twoOperands (packetC p) (.wriH (packetA p) (packetB p))
  | 0x18 => twoOperands (packetC p) (.wrW (packetA p) (packetB p))
  | 0x19 => twoOperands (packetC p) (.wrcW (packetA p) (packetB p))
  | 0x1A => twoOperands (packetC p) (.wrsW (packetA p) (packetB p))
  | 0x1B => twoOperands (packetC p) (.wriW (packetA p) (packetB p))
  | 0x20 => oneOperand (packetB p) (packetC p) (.raise (packetA p))
  | 0x21 => oneOperand (packetB p) (packetC p) (.clear (packetA p))
  | 0x22 => .ok (.push (packetA p) (packetB p) (packetC p))
  | 0x40 => noOperand (packetA p) (packetB p) (packetC p) .por
  | 0x41 => noOperand (packetA p) (packetB p) (packetC p) .arb
  | 0x42 => decodeKind (packetA p) (packetB p) (packetC p)
  | _ => .error (rejectHeader (packetHeader p))

/-- A packet from its header and operand words. -/
def pack (h : BitVec 8) (a b c : Word) : Packet :=
  c ++ b ++ a ++ h

/-- The word of a reset kind. -/
def kindWord : ResetKind → Word
  | .por => 0#32
  | .soft => 1#32

/-- The header byte of an operation: its selector number in spec/opcode_table.json, and its port. -/
def headerOf (i : Instr) : BitVec 8 :=
  match i with
  | .rdB _ => 0x00#8
  | .rdcB _ => 0x01#8
  | .rdsB _ => 0x02#8
  | .rdiB _ => 0x03#8
  | .rdH _ => 0x04#8
  | .rdcH _ => 0x05#8
  | .rdsH _ => 0x06#8
  | .rdiH _ => 0x07#8
  | .rdW _ => 0x08#8
  | .rdcW _ => 0x09#8
  | .rdsW _ => 0x0A#8
  | .rdiW _ => 0x0B#8
  | .wrB _ _ => 0x10#8
  | .wrcB _ _ => 0x11#8
  | .wrsB _ _ => 0x12#8
  | .wriB _ _ => 0x13#8
  | .wrH _ _ => 0x14#8
  | .wrcH _ _ => 0x15#8
  | .wrsH _ _ => 0x16#8
  | .wriH _ _ => 0x17#8
  | .wrW _ _ => 0x18#8
  | .wrcW _ _ => 0x19#8
  | .wrsW _ _ => 0x1A#8
  | .wriW _ _ => 0x1B#8
  | .raise _ => 0x20#8
  | .clear _ => 0x21#8
  | .push _ _ _ => 0x22#8
  | .por => 0x40#8
  | .arb => 0x41#8
  | .fullreset _ => 0x42#8

/-- The packet of an operation. -/
def encode (i : Instr) : Packet :=
  match i with
  | .rdB a => pack (headerOf i) a 0#32 0#32
  | .rdH a => pack (headerOf i) a 0#32 0#32
  | .rdW a => pack (headerOf i) a 0#32 0#32
  | .rdcB a => pack (headerOf i) a 0#32 0#32
  | .rdsB a => pack (headerOf i) a 0#32 0#32
  | .rdiB a => pack (headerOf i) a 0#32 0#32
  | .rdcH a => pack (headerOf i) a 0#32 0#32
  | .rdsH a => pack (headerOf i) a 0#32 0#32
  | .rdiH a => pack (headerOf i) a 0#32 0#32
  | .rdcW a => pack (headerOf i) a 0#32 0#32
  | .rdsW a => pack (headerOf i) a 0#32 0#32
  | .rdiW a => pack (headerOf i) a 0#32 0#32
  | .wrB a v => pack (headerOf i) a v 0#32
  | .wrH a v => pack (headerOf i) a v 0#32
  | .wrW a v => pack (headerOf i) a v 0#32
  | .wrcB a v => pack (headerOf i) a v 0#32
  | .wrcH a v => pack (headerOf i) a v 0#32
  | .wrcW a v => pack (headerOf i) a v 0#32
  | .wrsB a v => pack (headerOf i) a v 0#32
  | .wrsH a v => pack (headerOf i) a v 0#32
  | .wrsW a v => pack (headerOf i) a v 0#32
  | .wriB a v => pack (headerOf i) a v 0#32
  | .wriH a v => pack (headerOf i) a v 0#32
  | .wriW a v => pack (headerOf i) a v 0#32
  | .raise id => pack (headerOf i) id 0#32 0#32
  | .clear id => pack (headerOf i) id 0#32 0#32
  | .push off v m => pack (headerOf i) off v m
  | .por => pack (headerOf i) 0#32 0#32 0#32
  | .arb => pack (headerOf i) 0#32 0#32 0#32
  | .fullreset k => pack (headerOf i) (kindWord k) 0#32 0#32

/-- The packet whose low `nbits` bits are `w` and whose other bits are zero. -/
def packetOfTableWord (nbits w : Nat) : Packet :=
  BitVec.ofNat 104 (w % 2 ^ nbits)

/-- The operation the decoder reads from a table word (spec/opcode_table.json numbers SEL, PSEL and SSEL apart from each
other, and a word carries no port: a bare word is read on the bus port, log entry 3). -/
def decodeTableWord (nbits w : Nat) : Option Instr :=
  match decode (packetOfTableWord nbits w) with
  | .ok i => some i
  | .error _ => none

end Sys2Proof
end

