-- ==== Sys2Proof/Machine/RefConfig.lean ====
section
/-! DEFINITION. REFCFG, the example configuration of spec/95_test_vectors.md section 0. It is not normative and gives
the OPEN parameters of R5 no meaning beyond "one well-formed choice": State.reset stands on it (log entry 2, DESIGN
CHOICE), statements hold for every well-formed configuration. -/

namespace Sys2Proof.Machine

/-- A plain read-write register without hooks, from which the rows below start. -/
def refRow (base : Word) (name : String) (role : Role) : Descriptor :=
  { base := base, name := name, policy := .rw, hasAlias := false, aliasRead := .base, wmask := 0xFFFFFFFF#32,
    protmask := 0#32, rforceMask := 0#32, rforceVal := 0#32, rside := none, rhook := none, whook := none,
    role := role }

/-- A read-write register with aliases that read as the base, as REFCFG gives every IFS, IEC and IPC register. -/
def refAliased (base : Word) (name : String) (role : Role) : Descriptor :=
  { refRow base name role with hasAlias := true }

/-- An IPC register of REFCFG: write mask 0x1F1F1F1F. -/
def refIpc (base : Word) (name : String) (k : Nat) : Descriptor :=
  { refAliased base name (.ipc k) with wmask := 0x1F1F1F1F#32 }

/-- The registers of REFCFG the block itself interprets. -/
def refBlockRegs : List Descriptor :=
  [ { refRow 0x010#32 "STAT" .stat with policy := .ro, wmask := 0#32 },
    refRow 0x030#32 "KEY" .key,
    refAliased 0x040#32 "IFS0" (.ifs 0),
    refAliased 0x050#32 "IFS1" (.ifs 1),
    refAliased 0x0C0#32 "IEC0" (.iec 0),
    refAliased 0x0D0#32 "IEC1" (.iec 1),
    refIpc 0x140#32 "IPC0" 0,
    refIpc 0x150#32 "IPC1" 1,
    refIpc 0x160#32 "IPC2" 2,
    refIpc 0x170#32 "IPC3" 3,
    refIpc 0x180#32 "IPC4" 4,
    refIpc 0x190#32 "IPC5" 5,
    refIpc 0x1A0#32 "IPC6" 6,
    refIpc 0x1B0#32 "IPC7" 7,
    refIpc 0x1C0#32 "IPC8" 8,
    refIpc 0x1D0#32 "IPC9" 9,
    { refRow 0x250#32 "RSWRST" .rswrst with wmask := 1#32, protmask := 1#32 } ]

/-- The peripheral registers of REFCFG. -/
def refPeripheralRegs : List Descriptor :=
  [ { refAliased 0x300#32 "TSTRW" .plain with aliasRead := .zero },
    { refRow 0x310#32 "RXREG" .plain with
        policy := .ro, wmask := 0#32, rside := some (0x320#32, 1#32), rhook := some "uart_rx" },
    { refRow 0x320#32 "STA" .plain with
        policy := .ro, wmask := 0#32, rforceMask := 0x100#32, rforceVal := 0x100#32 },
    { refAliased 0x330#32 "TXREG" .plain with
        policy := .wo, aliasRead := .disallowed, wmask := 0xFF#32, whook := some "uart_tx" },
    { refAliased 0x340#32 "CFGP" .plain with
        wmask := 0x00FFFFFF#32, protmask := 0x0000FF00#32, whook := some "cfg" },
    { refRow 0x350#32 "MODE" .plain with policy := .wse, wmask := 0xF#32, whook := some "mode" },
    refRow 0x360#32 "OFF0" (.off 0) ]

/-- REFCFG (spec/95_test_vectors.md section 0), with the defaults of R5. -/
def refCfg : Config :=
  { windowSize := 0x1000
    windowBase := 0#32
    numSources := 40
    ifsOff := [0x040#32, 0x050#32]
    iecOff := [0x0C0#32, 0x0D0#32]
    ipcOff := [0x140#32, 0x150#32, 0x160#32, 0x170#32, 0x180#32, 0x190#32, 0x1A0#32, 0x1B0#32, 0x1C0#32, 0x1D0#32]
    statOff := 0x010#32
    keyOff := 0x030#32
    rswrstOff := 0x250#32
    resetTriggerMask := 0x00000001#32
    iplLsb := 2
    islLsb := 0
    statVecLsb := 0
    statVecW := 8
    statPriLsb := 8
    arbLevel0Wins := false
    magic1 := 0xAA996655#32
    magic2 := 0x556699AA#32
    descTable := refBlockRegs ++ refPeripheralRegs
    resetPattern := [(0x340#32, 0x00001200#32), (0x140#32, 0x00000010#32)]
    hooks := ["uart_rx", "uart_tx", "cfg", "mode"]
    sourceId := [(0, "timer tick"), (7, "UART receive")] }

end Sys2Proof.Machine
end

