-- ==== Sys2Proof/Machine/State.lean ====
section
/-! DEFINITION. The state of the block (spec/10_state.md R10), the responses and output events of a transaction
(spec/30_encoding.md R66, spec/44_peripheral_port.md R173), the reasons a step stops, and the state right after power-on
reset (R32). -/

namespace Sys2Proof.Machine

/-- The Unlock State (R18). -/
inductive Unlock where
  | locked | stage1 | stage2
deriving DecidableEq, Repr

/-- The response of a bus transaction (R66). Peripheral and system operations have none. -/
inductive Response where
  | none
  /-- `Ok(v)`: a read was performed -/
  | okRead (v : Value)
  /-- `Ok`: a write was performed -/
  | okWrite
  /-- `Policy(v)`: a read violated the register's policy; the value is the underlying one -/
  | policyRead (v : Value)
  /-- `Policy`: a write violated the register's policy and was dropped -/
  | policyWrite
  /-- `Fatal`: UnsupportedRegister; the block is now halted -/
  | fatal
deriving DecidableEq, Repr

/-- The output events (R173). -/
inductive Event where
  | readHook (h : HookId) (base : Word) (lane : Lane) (width : Width) (v : Value)
  | writeHook (h : HookId) (base old new : Word)
  | assertHardwareInterrupt (level : Level)
  | deassertHardwareInterrupt
  | requestCpuReset
  | periphReset
  | logPolicyViolation (address : Word) (dir : Dir) (name : String)
  | fatalUnsupportedRegister (address : Word) (dir : Dir)
deriving DecidableEq, Repr

/-- Why the machine stops. -/
inductive Fault where
  /-- Raised by every operation but POR while `halted` is true, and by a step that finds nothing to run then: after a
  fatal error "no transaction of any port has a step: the block is stuck" (R186, R19, U10). Safe: the spec gives no step
  there either. -/
  | halted
deriving DecidableEq, Repr

/-- Why the model gives a transaction no meaning: in each case the spec itself refuses it (R190). -/
inductive Refusal where
  /-- The instruction has no meaning yet. No arm answers with it. Safe: the model stops. -/
  | notModelled (mnemonic : String)
  /-- Raised by the bus operations when lane + width > 4, and by a step on a packet whose width code is 3:
  `refuse(MisalignedOrBadWidth)` (R44, U2, U3). Safe: the spec gives no behaviour. -/
  | misalignedOrBadWidth
  /-- Raised by RAISE and CLEAR when id >= N (R137, U8). Safe: the spec gives no behaviour. -/
  | sourceOutOfRange
  /-- Raised by PUSH when the offset is not the base of a PLAIN or OFF descriptor (R171, U9). Safe: the spec gives no
  behaviour. -/
  | pushTarget
  /-- Raised by a step on a packet that is no operation: PSEL 3, SSEL 3 (R64, R65, R70; the refusal is the model's choice,
  log entry 16), port 3 or a set reserved bit (log entry 3). Safe: the machine stops. -/
  | notAnOperation
deriving DecidableEq, Repr

/-- The Register File (R11): 32-bit cells by word-aligned window offset, as the list of those that are not zero, offsets
strictly rising (`memoryWf`). An unlisted cell reads zero, which is what a reset leaves (R221 step 1). -/
abbrev Memory := List (Nat × Word)

/-- The state of the block and its ports. -/
structure State where
  /-- the parameters (R5, R13): configuration, never changed by a step (log entry 1) -/
  cfg : Config
  /-- the Register File `cell[o]` (R11) -/
  mem : Memory
  /-- the Unlock State (R18) -/
  unlock : Unlock
  /-- the latched core priority level; the interrupt line is asserted when it is not 0 (R20) -/
  coreIpl : Level
  /-- set by a fatal error, cleared only by power-on reset (R19) -/
  halted : Bool
  /-- observation-only counter of arbitration runs (R21) -/
  arbCount : Nat
  /-- the model's own: how many free values were drawn (log entry 6) -/
  draws : Nat
  /-- the model's own: transactions received and not yet run, in order of arrival (R2, R8, R49; log entry 5) -/
  inbox : List Packet
  /-- the model's own: the response of the last transaction (R66; log entry 5) -/
  response : Response
  /-- the model's own: the output events of the last transaction, in order (R173; log entry 5) -/
  events : List Event
deriving DecidableEq, Repr

/-- The machine right after power-on reset (R32) under the configuration REFCFG (log entry 2): every cell zero but those
of RESET_PATTERN, Locked, level 0, running; STAT is the zero the arbitration that ends the reset publishes, since the
pattern arms nothing. `arbCount` is not specified (R32): 0 here, log entry 7. No transaction has arrived. -/
def State.reset : State :=
  { cfg := refCfg
    mem := [(0x140, 0x00000010#32), (0x340, 0x00001200#32)]
    unlock := .locked
    coreIpl := 0#3
    halted := false
    arbCount := 0
    draws := 0
    inbox := []
    response := .none
    events := [] }

end Sys2Proof.Machine
end

