-- ==== Sys2Proof/Machine/Flags.lean ====
section
/-! DEFINITION. The Register File's read and the per-source bits over it: flag, enable, level, sub-priority, pending and
armed (spec/10_state.md R22 to R25), the fields of STAT (R26), the interrupt line (R20), and the arbitration scan
(spec/42_arbiter.md R131). -/

namespace Sys2Proof.Machine

/-- What a cell that is not listed holds: zero (R221 step 1, R32). -/
def emptyCell : Word := 0#32

/-- The cell at a word-aligned offset. -/
def readMemory (m : Memory) (o : Nat) : Word :=
  match m with
  | [] => emptyCell
  | (k, v) :: rest => if o = k then v else readMemory rest o

/-- The canonical form: offsets strictly rising, no entry equal to what an unlisted cell reads as. -/
abbrev memoryWf (m : Memory) : Prop :=
  m.Pairwise (fun p q => p.1 < q.1) ∧ ∀ p ∈ m, p.2 ≠ emptyCell

/-- `cell[o]`, which is also `RegRead(o)` (R7, R12). -/
def cell (s : State) (o : Word) : Word :=
  readMemory s.mem o.toNat

/-- The byte at a window offset: byte lane k of its cell (R40, R43). -/
def byteAt (s : State) (a : Word) : Byte :=
  (cell s (a &&& 0xFFFFFFFC#32) >>> (8 * (a.toNat % 4))).setWidth 8

/-- `flag(i)` (R25): source i is pending. -/
def flag (s : State) (i : Nat) : Bool :=
  (cell s (ifsOffset s.cfg (i / 32))).getLsbD (i % 32)

/-- `enable(i)` (R25). -/
def enable (s : State) (i : Nat) : Bool :=
  (cell s (iecOffset s.cfg (i / 32))).getLsbD (i % 32)

/-- `pfield(i)`: the 8-bit priority field of source i (R24, R25). -/
def pfield (s : State) (i : Nat) : Byte :=
  (cell s (ipcOffset s.cfg (i / 4)) >>> (8 * (i % 4))).setWidth 8

/-- `level(i)` (R25). -/
def level (s : State) (i : Nat) : Level :=
  (pfield s i >>> s.cfg.iplLsb).setWidth 3

/-- `subprio(i)` (R25): stored, never read by the scan (R139). -/
def subprio (s : State) (i : Nat) : BitVec 2 :=
  (pfield s i >>> s.cfg.islLsb).setWidth 2

/-- `pending(i)` (R25). -/
def pending (s : State) (i : Nat) : Bool :=
  flag s i

/-- `armed(i)`: pending and enabled (R25). -/
def armed (s : State) (i : Nat) : Bool :=
  flag s i && enable s i

/-- The PRI field of STAT: the published priority (R26). -/
def statPri (s : State) : Level :=
  (cell s s.cfg.statOff >>> s.cfg.statPriLsb).setWidth 3

/-- The VEC field of STAT: the published vector (R26). -/
def statVec (s : State) : Nat :=
  (cell s s.cfg.statOff >>> s.cfg.statVecLsb).toNat % 2 ^ s.cfg.statVecW

/-- The interrupt line to the core: asserted when `core_ipl` is not 0 (R20). -/
def interruptLine (s : State) : Bool :=
  decide (s.coreIpl ≠ 0#3)

/-- The Arbitration Result (R131): is-any-pending, winning vector index, winning priority. It is recomputed, not state
(R13). -/
structure ArbResult where
  any : Bool
  vec : Nat
  lvl : Level
deriving DecidableEq, Repr

/-- One source of the scan (R131): an armed source replaces the winner when its level is strictly greater, or, with
ARB_LEVEL0_WINS, when it is the first armed source found. -/
def scanSource (s : State) (r : ArbResult) (i : Nat) : ArbResult :=
  if armed s i && (decide (r.lvl < level s i) || (s.cfg.arbLevel0Wins && !r.any)) then
    { any := true, vec := i, lvl := level s i }
  else r

/-- `scan()`: the sources 0 to N-1 in this order, from "nothing" at level 0 (R131). -/
def scan (s : State) : ArbResult :=
  (List.range s.cfg.numSources).foldl (scanSource s) { any := false, vec := 0, lvl := 0#3 }

/-- The word STAT is given (R132). -/
def statWord (c : Config) (r : ArbResult) : Word :=
  if r.any then
    (r.lvl.setWidth 32 <<< c.statPriLsb) ||| (BitVec.ofNat 32 r.vec <<< c.statVecLsb)
  else 0#32

end Sys2Proof.Machine
end

