-- ==== Sys2Proof/Machine/Ops.lean ====
section
/-! DEFINITION. The named operations every transaction is made of: the Register File's write (spec/10_state.md R12), the
event list (spec/44_peripheral_port.md R173), the two errors (spec/60_exceptions.md R186, R187), arbitration
(spec/42_arbiter.md R132 to R134), the full reset (spec/70_reset_and_hazards.md R221) and the unlock machine
(spec/43_unlock_reset.md R150, spec/41_bus_write.md R104). Taking the block's one exception is `raiseFatal` (R186, R195:
"its own trap"); the only way back from it is `powerOn` (R220). -/

namespace Sys2Proof.Machine

/-- Writes a cell and keeps the canonical form: a zero is not listed. -/
def writeMemory (m : Memory) (o : Nat) (v : Word) : Memory :=
  match m with
  | [] => if v = emptyCell then [] else [(o, v)]
  | (k, x) :: rest =>
    if o < k then (if v = emptyCell then (k, x) :: rest else (o, v) :: (k, x) :: rest)
    else if o = k then (if v = emptyCell then rest else (o, v) :: rest)
    else (k, x) :: writeMemory rest o v

/-- `cell[o] <- v`, which is also `RegWrite(o, v)` (R7, R12). -/
def setCell (s : State) (o v : Word) : State :=
  { s with mem := writeMemory s.mem o.toNat v }

/-- `emit E(args)` (R7, R173). -/
def emit (s : State) (e : Event) : State :=
  { s with events := s.events ++ [e] }

/-- Emits one event per declared hook: none or one. -/
def emitHook (s : State) (h : Option HookId) (e : HookId → Event) : State :=
  match h with
  | none => s
  | some id => emit s (e id)

/-- `return v`: the transaction's response (R7, R66). -/
def respond (s : State) (r : Response) : State :=
  { s with response := r }

/-- A transaction begins with no response and an empty event list (R2, R173). -/
def openTransaction (s : State) : State :=
  { s with response := .none, events := [] }

/-- A transaction has a step only while the block is not halted (R186; the first check of R191). -/
def whenRunning (s : State) (k : State → Host.Outcome State Fault Refusal) : Host.Outcome State Fault Refusal :=
  if s.halted then .fault .halted else k (openTransaction s)

/-- `raise Fatal(UnsupportedRegister, address, dir)` (R186): report, halt, answer Fatal; everything else is kept. -/
def raiseFatal (s : State) (address : Word) (dir : Dir) : State :=
  respond { emit s (.fatalUnsupportedRegister address dir) with halted := true } .fatal

/-- `log PolicyViolation(address, dir)` (R187): the log event and nothing else. -/
def logPolicyViolation (s : State) (address : Word) (dir : Dir) (d : Descriptor) : State :=
  emit s (.logPolicyViolation address dir d.name)

/-- Publication: STAT is written whole, straight to the cell (R132). -/
def publish (s : State) (r : ArbResult) : State :=
  setCell s s.cfg.statOff (statWord s.cfg r)

/-- Signalling the core (R133): assert on a change to a non-zero level, deassert on a change to none. A result of level 0
is signalled as none. -/
def signal (s : State) (r : ArbResult) : State :=
  if r.any ∧ r.lvl ≠ 0#3 then
    if r.lvl ≠ s.coreIpl then emit { s with coreIpl := r.lvl } (.assertHardwareInterrupt r.lvl) else s
  else
    if s.coreIpl ≠ 0#3 then emit { s with coreIpl := 0#3 } .deassertHardwareInterrupt else s

/-- The arbitration run is counted (R21, R134). -/
def countArb (s : State) : State :=
  { s with arbCount := s.arbCount + 1 }

/-- `ARB()` (R134): scan, count, publish, signal. -/
def arbitrate (s : State) : State :=
  signal (publish (countArb s) (scan s)) (scan s)

/-- The Register File after steps 1 and 2 of a reset (R221): zeroed, then pattern-initialized. -/
def patternMemory (c : Config) : Memory :=
  c.resetPattern.foldl (fun m p => writeMemory m p.1.toNat p.2) []

/-- After a power-on reset `arb_count` is not specified (R21, R32, U15): a free value (log entry 6). -/
def freeCount (s : State) : State :=
  { s with arbCount := Config.freeArbCount s.draws, draws := s.draws + 1 }

/-- Steps 1 to 4 of a reset (R221): the state elements. -/
def clearForReset (s : State) : State :=
  { s with mem := patternMemory s.cfg, unlock := .locked, coreIpl := 0#3 }

/-- `FullReset(kind)` (R221): cells, Locked, level 0, PeriphReset, requestCpuReset on a soft reset, `ARB()`; the count
after a power-on reset is free (R32). -/
def fullReset (kind : ResetKind) (s : State) : State :=
  match kind with
  | .por => freeCount (arbitrate (emit (clearForReset s) .periphReset))
  | .soft => arbitrate (emit (emit (clearForReset s) .periphReset) .requestCpuReset)

/-- `POR()` (R220): the only way out of a halt. -/
def powerOn (s : State) : State :=
  fullReset .por { openTransaction s with halted := false }

/-- Stage 4d of a write, the effective write mask (R104): protected fields are writable only in Stage2. -/
def effectiveMask (u : Unlock) (d : Descriptor) : Word :=
  match u with
  | .stage2 => d.wmask
  | .locked => d.wmask &&& ~~~ d.protmask
  | .stage1 => d.wmask &&& ~~~ d.protmask

/-- A completed write to this descriptor is a protected write (R152). -/
def isProtected (d : Descriptor) : Bool :=
  d.role == .rswrst || d.protmask != 0#32

/-- The transition of a write to KEY that commits the word `new` (R151). -/
def keyTransition (c : Config) (u : Unlock) (new : Word) : Unlock :=
  match u with
  | .locked => if new = c.magic1 then .stage1 else .locked
  | .stage1 => if new = c.magic2 then .stage2 else .locked
  | .stage2 => .locked

/-- `next_unlock(u, d, new)` (R150). -/
def nextUnlock (c : Config) (u : Unlock) (d : Descriptor) (new : Word) : Unlock :=
  if d.role = .key then keyTransition c u new
  else if isProtected d then .locked
  else u

/-- `ARB()` runs after a completed write to an IFS, IEC or IPC register, whether or not it changed (R106, R130). -/
def arbitrateIfInterrupt (s : State) (d : Descriptor) : State :=
  if isInterruptRole d.role then arbitrate s else s

/-- The read side effect of a descriptor: `cell[t] <- cell[t] & ~cm` (R84). That `t` may be the base of the register read
itself is a DESIGN CHOICE (log entry 19). -/
def applyReadSide (s : State) (d : Descriptor) : State :=
  match d.rside with
  | none => s
  | some (t, cm) => setCell s t (cell s t &&& ~~~ cm)

end Sys2Proof.Machine
end

