-- ==== Sys2Proof/Machine/Arbiter.lean ====
section
/-! DEFINITION. The arbiter's operations (spec/42_arbiter.md): RAISE (R135), CLEAR (R136) and the micro-operation ARB
(R134). -/

namespace Sys2Proof.Machine

/-- The word with one source's bit of a flag bank set: `1 << (id & 31)` (R135, R136). -/
def sourceBit (i : Nat) : Word :=
  1#32 <<< (i % 32)

/-- The flag bit of source i set in its cell: no policy, no mask, no hook (R135). -/
def setFlag (s : State) (i : Nat) : State :=
  setCell s (ifsOffset s.cfg (i / 32)) (cell s (ifsOffset s.cfg (i / 32)) ||| sourceBit i)

/-- The flag bit of source i cleared in its cell (R136). -/
def clearFlag (s : State) (i : Nat) : State :=
  setCell s (ifsOffset s.cfg (i / 32)) (cell s (ifsOffset s.cfg (i / 32)) &&& ~~~ sourceBit i)

/-- RAISE (R135): idempotent; a change re-arbitrates. -/
def execRaise (id : Word) (s0 : State) : Host.Outcome State Fault Refusal :=
  whenRunning s0 fun s =>
    if id.toNat < s.cfg.numSources then
      if flag s id.toNat then .next s else .next (arbitrate (setFlag s id.toNat))
    else .refused .sourceOutOfRange

/-- CLEAR (R136): idempotent; a change re-arbitrates. -/
def execClear (id : Word) (s0 : State) : Host.Outcome State Fault Refusal :=
  whenRunning s0 fun s =>
    if id.toNat < s.cfg.numSources then
      if flag s id.toNat then .next (arbitrate (clearFlag s id.toNat)) else .next s
    else .refused .sourceOutOfRange

/-- ARB (R134). No port carries it (R65); executed, it is the micro-operation itself (log entry 9). -/
def execArb (s0 : State) : Host.Outcome State Fault Refusal :=
  whenRunning s0 fun s => .next (arbitrate s)

end Sys2Proof.Machine
end

