-- ==== Sys2Proof/Machine/BusRead.lean ====
section
/-! DEFINITION. The read path (spec/40_bus_read.md R80 to R88) and the twelve read operations (R89 to R94). Which of base
and alias an access is, the lookup of its address says; the letter of the mnemonic is redundant (spec/30_encoding.md R61,
R72; log entry 8). -/

namespace Sys2Proof.Machine

/-- Read of a write-only register: logged, answered with the underlying value; nothing changes (R83, R187). -/
def violatingRead (w : Width) (lane : Lane) (address : Word) (d : Descriptor) (s : State) : State :=
  respond (logPolicyViolation s address .read d) (.policyRead (sel (cell s d.base) w lane))

/-- Stages 3a to 3c of a read of a base address (R81, R82, R84): fetch, force, then the side effect and the hook. -/
def permittedRead (w : Width) (lane : Lane) (d : Descriptor) (s : State) : State :=
  let v := sel (forced d (cell s d.base)) w lane
  respond (emitHook (applyReadSide s d) d.rhook (fun h => .readHook h d.base lane w v)) (.okRead v)

/-- Read of a base address (R80, R83, R84). -/
def baseRead (w : Width) (lane : Lane) (address : Word) (d : Descriptor) (s : State) : State :=
  match d.policy with
  | .wo => violatingRead w lane address d s
  | .rw => permittedRead w lane d s
  | .ro => permittedRead w lane d s
  | .wse => permittedRead w lane d s

/-- Read of an alias (R86, R87, R88): the base value, zero, or a violation; never a side effect, hook or computed
result. -/
def aliasRead (w : Width) (lane : Lane) (address : Word) (d : Descriptor) (s : State) : State :=
  match d.aliasRead with
  | .base => respond s (.okRead (sel (forced d (cell s d.base)) w lane))
  | .zero => respond s (.okRead (zeroValue w))
  | .disallowed => violatingRead w lane address d s

/-- A read whose register was found (R80). -/
def readFound (w : Width) (lane : Lane) (address : Word) (d : Descriptor) (op : OpCode) (s : State) : State :=
  match op with
  | .assign => baseRead w lane address d s
  | .clr => aliasRead w lane address d s
  | .set => aliasRead w lane address d s
  | .inv => aliasRead w lane address d s

/-- `onBusRead(address, width)` (R80): the checks in the order of R191. -/
def busRead (w : Width) (address : Word) (s0 : State) : Host.Outcome State Fault Refusal :=
  whenRunning s0 fun s =>
    if contained w (laneOf s.cfg address) then
      match busLookup s.cfg address with
      | none => .next (raiseFatal s address .read)
      | some (d, op) => .next (readFound w (laneOf s.cfg address) address d op s)
    else .refused .misalignedOrBadWidth

/-- RD.B (R89). -/
def execRdB (address : Word) (s : State) : Host.Outcome State Fault Refusal := busRead .byte address s

/-- RD.H (R90). -/
def execRdH (address : Word) (s : State) : Host.Outcome State Fault Refusal := busRead .half address s

/-- RD.W (R91). -/
def execRdW (address : Word) (s : State) : Host.Outcome State Fault Refusal := busRead .word address s

/-- RDC.B (R92). -/
def execRdcB (address : Word) (s : State) : Host.Outcome State Fault Refusal := busRead .byte address s

/-- RDS.B (R92). -/
def execRdsB (address : Word) (s : State) : Host.Outcome State Fault Refusal := busRead .byte address s

/-- RDI.B (R92). -/
def execRdiB (address : Word) (s : State) : Host.Outcome State Fault Refusal := busRead .byte address s

/-- RDC.H (R93). -/
def execRdcH (address : Word) (s : State) : Host.Outcome State Fault Refusal := busRead .half address s

/-- RDS.H (R93). -/
def execRdsH (address : Word) (s : State) : Host.Outcome State Fault Refusal := busRead .half address s

/-- RDI.H (R93). -/
def execRdiH (address : Word) (s : State) : Host.Outcome State Fault Refusal := busRead .half address s

/-- RDC.W (R94). -/
def execRdcW (address : Word) (s : State) : Host.Outcome State Fault Refusal := busRead .word address s

/-- RDS.W (R94). -/
def execRdsW (address : Word) (s : State) : Host.Outcome State Fault Refusal := busRead .word address s

/-- RDI.W (R94). -/
def execRdiW (address : Word) (s : State) : Host.Outcome State Fault Refusal := busRead .word address s

end Sys2Proof.Machine
end

