-- ==== Sys2Proof/Machine/BusWrite.lean ====
section
/-! DEFINITION. The write path (spec/41_bus_write.md R100 to R106) and the twelve write operations (R107 to R118). Which
view an access addresses, the lookup of its address says; the letter of the mnemonic is redundant (spec/30_encoding.md
R61, R72; log entry 8). -/

namespace Sys2Proof.Machine

/-- The word a write would commit: stages 4a to 4e (R101 to R105). -/
def committedWord (s : State) (w : Width) (lane : Lane) (d : Descriptor) (op : OpCode) (value : Word) : Word :=
  applyMask (effectiveMask s.unlock d)
    (decodeWriteOp op (cell s d.base) (operandWord op (cell s d.base) value w lane)) (cell s d.base)

/-- The write triggers the full reset (R106, R154): RSWRST, Stage2, a trigger bit in the word. -/
def triggersReset (s : State) (d : Descriptor) (new : Word) : Bool :=
  d.role == .rswrst && s.unlock == .stage2 && new &&& s.cfg.resetTriggerMask != 0#32

/-- The commit and what follows it (R106): cell, unlock state, arbitration. -/
def commitWrite (s : State) (d : Descriptor) (new : Word) : State :=
  arbitrateIfInterrupt { setCell s d.base new with unlock := nextUnlock s.cfg s.unlock d new } d

/-- Stage 4f (R106): the write hook, then the reset or the commit. -/
def finishWrite (s : State) (d : Descriptor) (new : Word) : State :=
  let s' := emitHook s d.whook (fun h => .writeHook h d.base (cell s d.base) new)
  if triggersReset s d new then fullReset .soft s' else commitWrite s' d new

/-- A write to a register marked read-only: logged and dropped (R100, R187). -/
def droppedWrite (address : Word) (d : Descriptor) (s : State) : State :=
  respond (logPolicyViolation s address .write d) .policyWrite

/-- A write the policy permits (R101 to R106). -/
def permittedWrite (w : Width) (lane : Lane) (d : Descriptor) (op : OpCode) (value : Word) (s : State) : State :=
  respond (finishWrite s d (committedWord s w lane d op value)) .okWrite

/-- A write whose register was found (R100): RO drops it, RW, WO and WSE permit it. -/
def writeFound (w : Width) (lane : Lane) (address : Word) (d : Descriptor) (op : OpCode) (value : Word) (s : State) :
    State :=
  match d.policy with
  | .ro => droppedWrite address d s
  | .rw => permittedWrite w lane d op value s
  | .wo => permittedWrite w lane d op value s
  | .wse => permittedWrite w lane d op value s

/-- `onBusWrite(address, width, value)` (R100): the checks in the order of R191. -/
def busWrite (w : Width) (address value : Word) (s0 : State) : Host.Outcome State Fault Refusal :=
  whenRunning s0 fun s =>
    if contained w (laneOf s.cfg address) then
      match busLookup s.cfg address with
      | none => .next (raiseFatal s address .write)
      | some (d, op) => .next (writeFound w (laneOf s.cfg address) address d op value s)
    else .refused .misalignedOrBadWidth

/-- WR.B (R107). -/
def execWrB (address value : Word) (s : State) : Host.Outcome State Fault Refusal := busWrite .byte address value s

/-- WR.H (R108). -/
def execWrH (address value : Word) (s : State) : Host.Outcome State Fault Refusal := busWrite .half address value s

/-- WR.W (R109). -/
def execWrW (address value : Word) (s : State) : Host.Outcome State Fault Refusal := busWrite .word address value s

/-- WRC.B (R110). -/
def execWrcB (address value : Word) (s : State) : Host.Outcome State Fault Refusal := busWrite .byte address value s

/-- WRC.H (R111). -/
def execWrcH (address value : Word) (s : State) : Host.Outcome State Fault Refusal := busWrite .half address value s

/-- WRC.W (R112). -/
def execWrcW (address value : Word) (s : State) : Host.Outcome State Fault Refusal := busWrite .word address value s

/-- WRS.B (R113). -/
def execWrsB (address value : Word) (s : State) : Host.Outcome State Fault Refusal := busWrite .byte address value s

/-- WRS.H (R114). -/
def execWrsH (address value : Word) (s : State) : Host.Outcome State Fault Refusal := busWrite .half address value s

/-- WRS.W (R115). -/
def execWrsW (address value : Word) (s : State) : Host.Outcome State Fault Refusal := busWrite .word address value s

/-- WRI.B (R116). -/
def execWriB (address value : Word) (s : State) : Host.Outcome State Fault Refusal := busWrite .byte address value s

/-- WRI.H (R117). -/
def execWriH (address value : Word) (s : State) : Host.Outcome State Fault Refusal := busWrite .half address value s

/-- WRI.W (R118). -/
def execWriW (address value : Word) (s : State) : Host.Outcome State Fault Refusal := busWrite .word address value s

end Sys2Proof.Machine
end

