-- ==== Sys2Proof/Machine/Peripheral.lean ====
section
/-! DEFINITION. The peripheral port's PUSH (spec/44_peripheral_port.md R171). -/

namespace Sys2Proof.Machine

/-- The masked update of a push: `(cell & ~mask) | (value & mask)` (R171). -/
def pushWord (old value mask : Word) : Word :=
  (old &&& ~~~ mask) ||| (value &&& mask)

/-- PUSH (R171): a masked update of the cell of a PLAIN or OFF register, addressed by its base offset; no policy, no write
mask, no hook, no unlock change, no arbitration. -/
def execPush (off value mask : Word) (s0 : State) : Host.Outcome State Fault Refusal :=
  whenRunning s0 fun s =>
    match lookup s.cfg off with
    | some (d, .assign) =>
      if pushable d.role then .next (setCell s off (pushWord (cell s off) value mask)) else .refused .pushTarget
    | some (_, .clr) => .refused .pushTarget
    | some (_, .set) => .refused .pushTarget
    | some (_, .inv) => .refused .pushTarget
    | none => .refused .pushTarget

end Sys2Proof.Machine
end

