-- ==== Sys2Proof/Machine/System.lean ====
section
/-! DEFINITION. The system operations (spec/70_reset_and_hazards.md): POR (R220) and the micro-operation FULLRESET
(R221). -/

namespace Sys2Proof.Machine

/-- POR (R220): the only transaction that has a step while the block is halted. -/
def execPor (s : State) : Host.Outcome State Fault Refusal :=
  .next (powerOn s)

/-- FULLRESET (R221). No port carries it (R65); executed, it is the micro-operation itself (log entry 9). -/
def execFullreset (kind : ResetKind) (s0 : State) : Host.Outcome State Fault Refusal :=
  whenRunning s0 fun s => .next (fullReset kind s)

end Sys2Proof.Machine
end

