-- ==== Sys2Proof/Machine/Dispatch.lean ====
section
/-! DEFINITION. One arm per operation of spec/opcode_table.json. -/

namespace Sys2Proof.Machine

def exec (i : Instr) (s : State) : Host.Outcome State Fault Refusal :=
  match i with
  | .rdB a => Sys2Proof.Machine.execRdB a s
  | .rdH a => Sys2Proof.Machine.execRdH a s
  | .rdW a => Sys2Proof.Machine.execRdW a s
  | .rdcB a => Sys2Proof.Machine.execRdcB a s
  | .rdsB a => Sys2Proof.Machine.execRdsB a s
  | .rdiB a => Sys2Proof.Machine.execRdiB a s
  | .rdcH a => Sys2Proof.Machine.execRdcH a s
  | .rdsH a => Sys2Proof.Machine.execRdsH a s
  | .rdiH a => Sys2Proof.Machine.execRdiH a s
  | .rdcW a => Sys2Proof.Machine.execRdcW a s
  | .rdsW a => Sys2Proof.Machine.execRdsW a s
  | .rdiW a => Sys2Proof.Machine.execRdiW a s
  | .wrB a v => Sys2Proof.Machine.execWrB a v s
  | .wrH a v => Sys2Proof.Machine.execWrH a v s
  | .wrW a v => Sys2Proof.Machine.execWrW a v s
  | .wrcB a v => Sys2Proof.Machine.execWrcB a v s
  | .wrcH a v => Sys2Proof.Machine.execWrcH a v s
  | .wrcW a v => Sys2Proof.Machine.execWrcW a v s
  | .wrsB a v => Sys2Proof.Machine.execWrsB a v s
  | .wrsH a v => Sys2Proof.Machine.execWrsH a v s
  | .wrsW a v => Sys2Proof.Machine.execWrsW a v s
  | .wriB a v => Sys2Proof.Machine.execWriB a v s
  | .wriH a v => Sys2Proof.Machine.execWriH a v s
  | .wriW a v => Sys2Proof.Machine.execWriW a v s
  | .raise id => Sys2Proof.Machine.execRaise id s
  | .clear id => Sys2Proof.Machine.execClear id s
  | .push off v m => Sys2Proof.Machine.execPush off v m s
  | .por => Sys2Proof.Machine.execPor s
  | .arb => Sys2Proof.Machine.execArb s
  | .fullreset k => Sys2Proof.Machine.execFullreset k s

end Sys2Proof.Machine
end

