-- ==== Sys2Proof/Machine/Fetch.lean ====
section
/-! DEFINITION. How a step comes by its transaction: the block takes what it received first (spec/00_scope.md R2, R8;
spec/20_memory.md R49). -/

namespace Sys2Proof.Machine

/-- What a packet that is no operation is refused by: a width code 3 by R44, any other by the model's choice (log entries 3
and 16); while halted it is the fault `halted`, as every transaction is (R186; log entry 12). -/
def rejectPacket (e : DecodeError) (s : State) : Host.Outcome State Fault Refusal :=
  if s.halted then .fault .halted
  else
    match e with
    | .badWidth => .refused .misalignedOrBadWidth
    | .notAnOperation => .refused .notAnOperation
    | .reservedBits => .refused .notAnOperation

/-- Nothing was received: the block waits, its outputs empty (log entry 5); while halted there is no step (R186). -/
def idle (s : State) : Host.Outcome State Fault Refusal :=
  if s.halted then .fault .halted else .next (openTransaction s)

/-- The state with the transaction taken from the head of the inbox. -/
def taken (s : State) (rest : List Packet) : State :=
  { s with inbox := rest }

/-- The state with a packet put at the head of the inbox. -/
def receiveFirst (s : State) (p : Packet) : State :=
  { s with inbox := p :: s.inbox }

end Sys2Proof.Machine
end

