-- ==== Sys2Proof/Machine/Step.lean ====
section
/-! DEFINITION. One step: one transaction, whole (spec/00_scope.md R2, spec/20_memory.md R46). -/

namespace Sys2Proof.Machine

/-- The block takes the transaction received first, decodes it and runs it. -/
def step (s : State) : Host.Outcome State Fault Refusal :=
  match s.inbox with
  | [] => idle s
  | p :: rest =>
    match decode p with
    | .ok i => exec i (taken s rest)
    | .error e => rejectPacket e (taken s rest)

/-- The state whose next step takes the packet of a table word: the word arrives as a transaction before all others. -/
def State.withFetchWord (s : State) (nbits w : Nat) : State :=
  receiveFirst s (packetOfTableWord nbits w)

end Sys2Proof.Machine
end

