-- ==== Sys2Proof/Safety.lean ====
section
/-! DEFINITION. The words statements about runs are made of: which operations are reads, writes, or requests of an agent
(spec/30_encoding.md R65, R69), what a winning source and a published state are (spec/10_state.md R31), the invariant of
the block, what a run must not do (spec/60_exceptions.md R186), and the frames of a read and of a write. -/

namespace Sys2Proof.Machine

/-- A bus read: its width, the operation code its letter names, its address (R69, R72). -/
def readForm : Instr → Option (Width × OpCode × Word)
  | .rdB a => some (.byte, .assign, a)
  | .rdH a => some (.half, .assign, a)
  | .rdW a => some (.word, .assign, a)
  | .rdcB a => some (.byte, .clr, a)
  | .rdsB a => some (.byte, .set, a)
  | .rdiB a => some (.byte, .inv, a)
  | .rdcH a => some (.half, .clr, a)
  | .rdsH a => some (.half, .set, a)
  | .rdiH a => some (.half, .inv, a)
  | .rdcW a => some (.word, .clr, a)
  | .rdsW a => some (.word, .set, a)
  | .rdiW a => some (.word, .inv, a)
  | .wrB _ _ => none
  | .wrH _ _ => none
  | .wrW _ _ => none
  | .wrcB _ _ => none
  | .wrcH _ _ => none
  | .wrcW _ _ => none
  | .wrsB _ _ => none
  | .wrsH _ _ => none
  | .wrsW _ _ => none
  | .wriB _ _ => none
  | .wriH _ _ => none
  | .wriW _ _ => none
  | .raise _ => none
  | .clear _ => none
  | .push _ _ _ => none
  | .por => none
  | .arb => none
  | .fullreset _ => none

/-- A bus write: its width, the operation code its letter names, its address and its value (R69, R72). -/
def writeForm : Instr → Option (Width × OpCode × Word × Word)
  | .wrB a v => some (.byte, .assign, a, v)
  | .wrH a v => some (.half, .assign, a, v)
  | .wrW a v => some (.word, .assign, a, v)
  | .wrcB a v => some (.byte, .clr, a, v)
  | .wrcH a v => some (.half, .clr, a, v)
  | .wrcW a v => some (.word, .clr, a, v)
  | .wrsB a v => some (.byte, .set, a, v)
  | .wrsH a v => some (.half, .set, a, v)
  | .wrsW a v => some (.word, .set, a, v)
  | .wriB a v => some (.byte, .inv, a, v)
  | .wriH a v => some (.half, .inv, a, v)
  | .wriW a v => some (.word, .inv, a, v)
  | .rdB _ => none
  | .rdH _ => none
  | .rdW _ => none
  | .rdcB _ => none
  | .rdsB _ => none
  | .rdiB _ => none
  | .rdcH _ => none
  | .rdsH _ => none
  | .rdiH _ => none
  | .rdcW _ => none
  | .rdsW _ => none
  | .rdiW _ => none
  | .raise _ => none
  | .clear _ => none
  | .push _ _ _ => none
  | .por => none
  | .arb => none
  | .fullreset _ => none

/-- What an agent can request (R8, R64, R65): everything but the two micro-operations. -/
def requestable : Instr → Bool
  | .arb => false
  | .fullreset _ => false
  | .por => true
  | .raise _ => true
  | .clear _ => true
  | .push _ _ _ => true
  | .rdB _ => true
  | .rdH _ => true
  | .rdW _ => true
  | .rdcB _ => true
  | .rdsB _ => true
  | .rdiB _ => true
  | .rdcH _ => true
  | .rdsH _ => true
  | .rdiH _ => true
  | .rdcW _ => true
  | .rdsW _ => true
  | .rdiW _ => true
  | .wrB _ _ => true
  | .wrH _ _ => true
  | .wrW _ _ => true
  | .wrcB _ _ => true
  | .wrcH _ _ => true
  | .wrcW _ _ => true
  | .wrsB _ _ => true
  | .wrsH _ _ => true
  | .wrsW _ _ => true
  | .wriB _ _ => true
  | .wriH _ _ => true
  | .wriW _ _ => true

/-- The level a result is signalled as: none is level 0 (R133). -/
def signalled (r : ArbResult) : Level :=
  if r.any then r.lvl else 0#3

/-- The event `ARB()` emits when the latched level was `old` (R133): none, an assert, or a deassert. -/
def arbEvents (old : Level) (r : ArbResult) : List Event :=
  if signalled r = old then []
  else if signalled r = 0#3 then [.deassertHardwareInterrupt]
  else [.assertHardwareInterrupt (signalled r)]

/-- The events of a declared hook: none or one. -/
def hookEvents (h : Option HookId) (e : HookId → Event) : List Event :=
  match h with
  | none => []
  | some id => [e id]

/-- Bit n of the register is one an arbitration reads (R22 to R25, R131): the flag or the enable bit of a source below N, or
one of the three level bits of such a source's priority byte. -/
def scannedBit (c : Config) (d : Descriptor) (n : Nat) : Bool :=
  match d.role with
  | .ifs k => decide (32 * k + n < c.numSources)
  | .iec k => decide (32 * k + n < c.numSources)
  | .ipc k => decide (4 * k + n / 8 < c.numSources ∧ c.iplLsb ≤ n % 8 ∧ n % 8 < c.iplLsb + 3)
  | .plain => false
  | .off _ => false
  | .stat => false
  | .key => false
  | .rswrst => false

/-- Source i is the one R31 publishes: armed, of non-zero level, no armed source has a higher level, none of the same
level a lower index. -/
def winner (s : State) (i : Nat) : Prop :=
  i < s.cfg.numSources ∧ armed s i = true ∧ level s i ≠ 0#3 ∧
    ∀ j, j < s.cfg.numSources → armed s j = true → level s j ≤ level s i ∧ (level s j = level s i → i ≤ j)

/-- R31, for ARB_LEVEL0_WINS = false. -/
def published (s : State) : Prop :=
  ((∀ i, i < s.cfg.numSources → armed s i = true → level s i = 0#3) →
    statPri s = 0#3 ∧ statVec s = 0 ∧ s.coreIpl = 0#3) ∧
  (∀ i, winner s i → statPri s = level s i ∧ statVec s = i ∧ s.coreIpl = level s i)

/-- STAT and the latched level are what an arbitration of the present cells gives (R31, R138). -/
def consistent (s : State) : Prop :=
  cell s s.cfg.statOff = statWord s.cfg (scan s) ∧ s.coreIpl = signalled (scan s)

/-- Only base offsets of descriptors hold data (R11). -/
def onlyBasesListed (s : State) : Prop :=
  ∀ p ∈ s.mem, ∃ d ∈ s.cfg.descTable, d.base.toNat = p.1

/-- The invariant of the block: a well-formed configuration (R16, U16), a canonical Register File that lists base cells
only (R11), and a published state that follows the registers (R31). -/
def invariant (s : State) : Prop :=
  wellFormedConfig s.cfg = true ∧ memoryWf s.mem ∧ onlyBasesListed s ∧ consistent s

/-- A safe state: the session has not been terminated by a fatal error (R186). -/
def safe (s : State) : Prop :=
  s.halted = false

/-- The value of `w` lanes of a word from lane `k` up (R43, R67), by bit position. -/
def lanes (x : Word) (w : Width) (k : Nat) : Value :=
  match w with
  | .byte => .byte (x.extractLsb' (8 * k) 8)
  | .half => .half (x.extractLsb' (8 * k) 16)
  | .word => .word x

/-- The value an access of this width returns for zero (R87). -/
def zeros : Width → Value
  | .byte => .byte 0#8
  | .half => .half 0#16
  | .word => .word 0#32

/-- The low bytes of a word under the width's mask, moved to lane `k`: the operand `m` of an alias write (R102). -/
def laneOperand (v : Word) (w : Width) (k : Nat) : Word :=
  match w with
  | .byte => (v &&& 0xFF#32) <<< (8 * k)
  | .half => (v &&& 0xFFFF#32) <<< (8 * k)
  | .word => v

/-- The lanes of a word from lane `k` up, as a mask (R67). -/
def lanesMask (w : Width) (k : Nat) : Word :=
  match w with
  | .byte => 0xFF#32 <<< (8 * k)
  | .half => 0xFFFF#32 <<< (8 * k)
  | .word => 0xFFFFFFFF#32

/-- The bytes a write of this width at this address stores to in the register `d`: `width` bytes from the base cell's
byte of the address's lane (R43, R44). -/
def storedBytes (d : Descriptor) (w : Width) (address : Word) : List Word :=
  (List.range (widthBytes w)).map (fun j => d.base + BitVec.ofNat 32 (address.toNat % 4 + j))

/-- The four bytes of STAT. -/
def statBytes (c : Config) : List Word :=
  (List.range 4).map (fun j => c.statOff + BitVec.ofNat 32 j)

/-- Nothing but the cells, the unlock state, the published state and the outputs may differ. -/
def samePorts (s t : State) : Prop :=
  t.cfg = s.cfg ∧ t.halted = s.halted ∧ t.draws = s.draws ∧ t.inbox = s.inbox

/-- The frame of a read of a base address: the read side target apart, every cell and every state element is as before
(R84, R85). -/
def readFrame (s t : State) (d : Descriptor) : Prop :=
  samePorts s t ∧ t.unlock = s.unlock ∧ t.coreIpl = s.coreIpl ∧ t.arbCount = s.arbCount ∧
  (∀ o, cell t o =
    match d.rside with
    | none => cell s o
    | some (target, mask) => if o = target then cell s o &&& ~~~ mask else cell s o)

/-- What a write of `new` to a register that is no interrupt register leaves (R106): the cell, the unlock state, the hook
event, the response; every byte it does not store to and every other state element is as before. -/
def quietCommit (s t : State) (d : Descriptor) (w : Width) (address new : Word) : Prop :=
  samePorts s t ∧ t.response = .okWrite ∧ cell t d.base = new ∧
  (∀ a, a ∉ storedBytes d w address → byteAt t a = byteAt s a) ∧
  t.unlock = nextUnlock s.cfg s.unlock d new ∧ t.coreIpl = s.coreIpl ∧ t.arbCount = s.arbCount ∧
  t.events = hookEvents d.whook (fun h => .writeHook h d.base (cell s d.base) new)

/-- What a write of `new` to an interrupt register leaves (R106, R130): as `quietCommit`, and an arbitration of the cells
with the new word in them has been published, counted and signalled. -/
def arbitratedCommit (s t : State) (d : Descriptor) (w : Width) (address new : Word) : Prop :=
  samePorts s t ∧ t.response = .okWrite ∧ cell t d.base = new ∧
  (∀ a, a ∉ storedBytes d w address → a ∉ statBytes s.cfg → byteAt t a = byteAt s a) ∧
  t.unlock = s.unlock ∧ t.arbCount = s.arbCount + 1 ∧
  cell t s.cfg.statOff = statWord s.cfg (scan t) ∧ t.coreIpl = signalled (scan t) ∧
  t.events = arbEvents s.coreIpl (scan t)

/-- The value R32 gives a base cell after a reset, STAT apart: the pattern's, else 0. -/
def powerOnValue (c : Config) (o : Word) : Word :=
  match c.resetPattern.find? (fun p => p.1 == o) with
  | some p => p.2
  | none => 0#32

/-- The write is a trigger of the soft reset (R154): RSWRST, Stage2, a trigger bit in the word the write would
commit. -/
def resetWrite (s : State) (d : Descriptor) (new : Word) : Prop :=
  d.role = .rswrst ∧ s.unlock = .stage2 ∧ new &&& s.cfg.resetTriggerMask ≠ 0#32

end Sys2Proof.Machine
end

