-- ==== Sys2Proof/Certificates/Slice0/Obligations.lean ====
section
/-! DEFINITION. What the model is stated to satisfy: one proposition per statement, each citing the rule of spec/ it
formalises. Statements about bus operations speak of any operation whose letter agrees with the lookup of its address
(spec/30_encoding.md R72), through `readForm` and `writeForm`, which list the twelve reads and the twelve writes. -/

open Sys2Proof Sys2Proof.Machine

/-! ### Decoding and the step -/

/-- Packets written out from the encodings of spec/95_test_vectors.md section 3 (programs P1 to P5), one of every
format, decode to the operations they stand for; the width code 3 and the selector 3 are rejected (R63, R64, R65). -/
def Obligations.TableWordsDecode : Prop :=
  decode 0x0000000000000001000000C81A#104 = .ok (.wrsW 0x0C8#32 1#32) ∧
  decode 0x00000000000000000000001008#104 = .ok (.rdW 0x010#32) ∧
  decode 0x00000000000000010000004419#104 = .ok (.wrcW 0x044#32 1#32) ∧
  decode 0x0000000000000000000003380A#104 = .ok (.rdsW 0x338#32) ∧
  decode 0x00000000000000000000000720#104 = .ok (.raise 7#32) ∧
  decode 0x000000FF000000690000031022#104 = .ok (.push 0x310#32 0x69#32 0xFF#32) ∧
  decode 0x00000000000000000000000040#104 = .ok .por ∧
  decode 0x00000000000000000000000142#104 = .ok (.fullreset .soft) ∧
  decode 0x0000000000000000000003000C#104 = .error .badWidth ∧
  decode 0x00000000000000000000000023#104 = .error .notAnOperation ∧
  decode 0x00000000000000000000000043#104 = .error .notAnOperation

/-- Every operation, with every operand, is what the decoder reads from its packet. -/
def Obligations.DecodeOfEncode : Prop :=
  ∀ i : Instr, decode (encode i) = .ok i

/-- Every packet that decodes is the packet of the operation it decodes to: each packet has one meaning and no operation
has two packets. -/
def Obligations.EncodeOfDecode : Prop :=
  ∀ (p : Packet) (i : Instr), decode p = .ok i → encode i = p

/-- When the transaction received first decodes to an operation, the step takes it from the inbox and is that operation's
meaning. -/
def Obligations.StepRunsTheDecodedTransaction : Prop :=
  ∀ (s : State) (p : Packet) (rest : List Packet) (i : Instr), s.inbox = p :: rest → decode p = .ok i →
    step s = exec i { s with inbox := rest }

/-- A step that finds no operation. The spec's own rows: a width code 3 is refused as MisalignedOrBadWidth (R44), and
while halted no transaction has a step (R186). The model's own choices: with nothing received a running block takes an
idle step (log entry 5); a packet with port 3 or a reserved bit set is refused by name (log entry 3), and so are PSEL 3
and SSEL 3, which R70 calls no operations without giving them a class (log entry 16); while halted a step that finds
nothing received, or a packet that is no operation, ends in the fault `halted` too (log entry 12). -/
def Obligations.StepWithoutAnOperation : Prop :=
  ∀ s : State,
    (s.inbox = [] → s.halted = false → step s = .next { s with response := .none, events := [] }) ∧
    (s.inbox = [] → s.halted = true → step s = .fault .halted) ∧
    (∀ (p : Packet) (rest : List Packet) (e : DecodeError), s.inbox = p :: rest → decode p = .error e →
      (s.halted = true → step s = .fault .halted) ∧
      (s.halted = false → e = .badWidth → step s = .refused .misalignedOrBadWidth) ∧
      (s.halted = false → e ≠ .badWidth → step s = .refused .notAnOperation))

/-! ### Registers, addresses, lookup -/

/-- A cell that was written reads as written and every other cell as before; the write keeps the canonical form and
touches nothing but the Register File (R12). -/
def Obligations.RegisterFileReadAfterWrite : Prop :=
  ∀ (s : State) (o v : Word), memoryWf s.mem →
    memoryWf (setCell s o v).mem ∧
    (∀ o', cell (setCell s o v) o' = if o' = o then v else cell s o') ∧
    { setCell s o v with mem := s.mem } = s

/-- The address split of R41: the window offset is the address modulo the window, the word offset the cell's, the lane
the two low bits; addresses that differ by a multiple of the window select the same byte. -/
def Obligations.AddressSplit : Prop :=
  ∀ (c : Config) (a : Word), wellFormedConfig c = true →
    (windowOff c a).toNat = a.toNat % c.windowSize ∧
    (wordOff c a).toNat = 4 * (a.toNat % c.windowSize / 4) ∧
    (laneOf c a).toNat = a.toNat % 4 ∧
    (∀ a' : Word, a'.toNat % c.windowSize = a.toNat % c.windowSize →
      wordOff c a' = wordOff c a ∧ laneOf c a' = laneOf c a)

/-- `lookup` finds exactly the views of the table (R15): each register at its base with ASSIGN, each register with
aliases at +0x4, +0x8, +0xC with CLR, SET, INV, and nothing else. -/
def Obligations.LookupFindsTheViews : Prop :=
  ∀ c : Config, wellFormedConfig c = true →
    (∀ d ∈ c.descTable, lookup c d.base = some (d, .assign) ∧
      (d.hasAlias = true →
        lookup c (d.base + 0x4#32) = some (d, .clr) ∧ lookup c (d.base + 0x8#32) = some (d, .set) ∧
        lookup c (d.base + 0xC#32) = some (d, .inv))) ∧
    (∀ (o : Word) (d : Descriptor) (op : OpCode), lookup c o = some (d, op) →
      d ∈ c.descTable ∧
      match op with
      | .assign => o = d.base
      | .clr => d.hasAlias = true ∧ o = d.base + 0x4#32
      | .set => d.hasAlias = true ∧ o = d.base + 0x8#32
      | .inv => d.hasAlias = true ∧ o = d.base + 0xC#32)

/-! ### Bus reads -/

/-- A read of a base address (RD.B, RD.H, RD.W) of a register that is not write-only: the cell, with the forced bits in
their constant, lane-selected; then the read side effect and the hook event, once; nothing else changes (R81, R82,
R84). -/
def Obligations.BaseReadReturnsTheLanes : Prop :=
  ∀ (i : Instr) (s : State) (w : Width) (a : Word) (d : Descriptor), readForm i = some (w, .assign, a) →
    s.halted = false → wellFormedConfig s.cfg = true → memoryWf s.mem → a.toNat % 4 + widthBytes w ≤ 4 →
    busLookup s.cfg a = some (d, .assign) → d.policy ≠ .wo →
    ∃ t, exec i s = .next t ∧
      t.response = .okRead (lanes ((cell s d.base &&& ~~~ d.rforceMask) ||| d.rforceVal) w (a.toNat % 4)) ∧
      t.events = hookEvents d.rhook (fun h => .readHook h d.base (BitVec.ofNat 2 (a.toNat % 4)) w
        (lanes ((cell s d.base &&& ~~~ d.rforceMask) ||| d.rforceVal) w (a.toNat % 4))) ∧
      readFrame s t d

/-- A read of the base address of a write-only register (RD.B, RD.H, RD.W) is logged and answered with the underlying
value; nothing else changes (R83). -/
def Obligations.WriteOnlyReadIsLogged : Prop :=
  ∀ (i : Instr) (s : State) (w : Width) (a : Word) (d : Descriptor), readForm i = some (w, .assign, a) →
    s.halted = false → wellFormedConfig s.cfg = true → a.toNat % 4 + widthBytes w ≤ 4 →
    busLookup s.cfg a = some (d, .assign) → d.policy = .wo →
    exec i s = .next { s with
      response := .policyRead (lanes (cell s d.base) w (a.toNat % 4))
      events := [.logPolicyViolation a .read d.name] }

/-- A read of a CLR, SET or INV alias (RDC, RDS, RDI at each width) whose `alias_read` is BASE returns what a read of the
base would, one whose `alias_read` is ZERO returns 0; no side effect, no hook, no log, no other change (R86, R87). -/
def Obligations.AliasReadReturnsBaseOrZero : Prop :=
  ∀ (i : Instr) (s : State) (w : Width) (op : OpCode) (a : Word) (d : Descriptor), readForm i = some (w, op, a) →
    op ≠ .assign → s.halted = false → wellFormedConfig s.cfg = true → a.toNat % 4 + widthBytes w ≤ 4 →
    busLookup s.cfg a = some (d, op) →
    (d.aliasRead = .base → exec i s = .next { s with
      response := .okRead (lanes ((cell s d.base &&& ~~~ d.rforceMask) ||| d.rforceVal) w (a.toNat % 4))
      events := [] }) ∧
    (d.aliasRead = .zero → exec i s = .next { s with response := .okRead (zeros w), events := [] })

/-- A read of an alias whose `alias_read` is DISALLOWED is logged and answered with the underlying value; nothing else
changes (R88). -/
def Obligations.DisallowedAliasReadIsLogged : Prop :=
  ∀ (i : Instr) (s : State) (w : Width) (op : OpCode) (a : Word) (d : Descriptor), readForm i = some (w, op, a) →
    op ≠ .assign → s.halted = false → wellFormedConfig s.cfg = true → a.toNat % 4 + widthBytes w ≤ 4 →
    busLookup s.cfg a = some (d, op) → d.aliasRead = .disallowed →
    exec i s = .next { s with
      response := .policyRead (lanes (cell s d.base) w (a.toNat % 4))
      events := [.logPolicyViolation a .read d.name] }

/-- A read never changes the unlock state, the latched level, STAT or any cell other than a read side target, and never
arbitrates (R85, which the spec marks as derived). -/
def Obligations.ReadsNeverPublish : Prop :=
  ∀ (i : Instr) (s t : State) (w : Width) (op : OpCode) (a : Word), readForm i = some (w, op, a) →
    wellFormedConfig s.cfg = true → memoryWf s.mem → exec i s = .next t →
    t.unlock = s.unlock ∧ t.coreIpl = s.coreIpl ∧ cell t s.cfg.statOff = cell s s.cfg.statOff ∧
    t.arbCount = s.arbCount ∧ t.cfg = s.cfg ∧ t.draws = s.draws ∧ t.inbox = s.inbox ∧
    (∀ o, cell t o ≠ cell s o →
      ∃ d m, busLookup s.cfg a = some (d, .assign) ∧ d.rside = some (o, m) ∧ cell t o = cell s o &&& ~~~ m)

/-- What a read answers, and what it does to everything else, does not depend on the unlock state: "It is not readable
through the bus" (R18). -/
def Obligations.ReadsDoNotShowTheUnlockState : Prop :=
  ∀ (i : Instr) (s t : State) (u : Unlock) (w : Width) (op : OpCode) (a : Word), readForm i = some (w, op, a) →
    exec i s = .next t → exec i { s with unlock := u } = .next { t with unlock := u }

/-! ### Bus writes -/

/-- An assign write (WR.B, WR.H, WR.W) to a register that is no interrupt register: the written lanes merge into the old
word, the effective mask keeps the rest, the hook is told both words, the unlock state follows R150; every byte not
stored to is unchanged (R107 to R109 with R104 to R106). -/
def Obligations.AssignWriteCommits : Prop :=
  ∀ (i : Instr) (s : State) (w : Width) (a v : Word) (d : Descriptor), writeForm i = some (w, .assign, a, v) →
    s.halted = false → wellFormedConfig s.cfg = true → memoryWf s.mem → a.toNat % 4 + widthBytes w ≤ 4 →
    busLookup s.cfg a = some (d, .assign) → d.policy ≠ .ro → isInterruptRole d.role = false →
    let old := cell s d.base
    let m := (old &&& ~~~ lanesMask w (a.toNat % 4)) ||| laneOperand v w (a.toNat % 4)
    let eff := if s.unlock = .stage2 then d.wmask else d.wmask &&& ~~~ d.protmask
    let new := (m &&& eff) ||| (old &&& ~~~ eff)
    ¬ resetWrite s d new → ∃ t, exec i s = .next t ∧ quietCommit s t d w a new

/-- An atomic clear (WRC.B, WRC.H, WRC.W) of a register that is no interrupt register: the bits written are cleared in
the accessed lanes only, under the effective mask (R110 to R112). -/
def Obligations.ClearWriteCommits : Prop :=
  ∀ (i : Instr) (s : State) (w : Width) (a v : Word) (d : Descriptor), writeForm i = some (w, .clr, a, v) →
    s.halted = false → wellFormedConfig s.cfg = true → memoryWf s.mem → a.toNat % 4 + widthBytes w ≤ 4 →
    busLookup s.cfg a = some (d, .clr) → d.policy ≠ .ro → isInterruptRole d.role = false →
    let old := cell s d.base
    let eff := if s.unlock = .stage2 then d.wmask else d.wmask &&& ~~~ d.protmask
    let new := ((old &&& ~~~ laneOperand v w (a.toNat % 4)) &&& eff) ||| (old &&& ~~~ eff)
    ¬ resetWrite s d new → ∃ t, exec i s = .next t ∧ quietCommit s t d w a new

/-- An atomic set (WRS.B, WRS.H, WRS.W) of a register that is no interrupt register (R113 to R115). -/
def Obligations.SetWriteCommits : Prop :=
  ∀ (i : Instr) (s : State) (w : Width) (a v : Word) (d : Descriptor), writeForm i = some (w, .set, a, v) →
    s.halted = false → wellFormedConfig s.cfg = true → memoryWf s.mem → a.toNat % 4 + widthBytes w ≤ 4 →
    busLookup s.cfg a = some (d, .set) → d.policy ≠ .ro → isInterruptRole d.role = false →
    let old := cell s d.base
    let eff := if s.unlock = .stage2 then d.wmask else d.wmask &&& ~~~ d.protmask
    let new := ((old ||| laneOperand v w (a.toNat % 4)) &&& eff) ||| (old &&& ~~~ eff)
    ¬ resetWrite s d new → ∃ t, exec i s = .next t ∧ quietCommit s t d w a new

/-- An atomic invert (WRI.B, WRI.H, WRI.W) of a register that is no interrupt register (R116 to R118). -/
def Obligations.InvertWriteCommits : Prop :=
  ∀ (i : Instr) (s : State) (w : Width) (a v : Word) (d : Descriptor), writeForm i = some (w, .inv, a, v) →
    s.halted = false → wellFormedConfig s.cfg = true → memoryWf s.mem → a.toNat % 4 + widthBytes w ≤ 4 →
    busLookup s.cfg a = some (d, .inv) → d.policy ≠ .ro → isInterruptRole d.role = false →
    let old := cell s d.base
    let eff := if s.unlock = .stage2 then d.wmask else d.wmask &&& ~~~ d.protmask
    let new := ((old ^^^ laneOperand v w (a.toNat % 4)) &&& eff) ||| (old &&& ~~~ eff)
    ¬ resetWrite s d new → ∃ t, exec i s = .next t ∧ quietCommit s t d w a new

/-- A write, through any view and at any width, to an IFS, IEC or IPC register commits as the rule of its operation says
and then arbitrates once, over the cells with the new word in them, whether or not the cell changed (R106, R130). -/
def Obligations.InterruptRegisterWriteArbitrates : Prop :=
  ∀ (i : Instr) (s : State) (w : Width) (op : OpCode) (a v : Word) (d : Descriptor),
    writeForm i = some (w, op, a, v) → s.halted = false → wellFormedConfig s.cfg = true → memoryWf s.mem →
    a.toNat % 4 + widthBytes w ≤ 4 → busLookup s.cfg a = some (d, op) → isInterruptRole d.role = true →
    let old := cell s d.base
    let m := laneOperand v w (a.toNat % 4)
    let cand :=
      match op with
      | .assign => (old &&& ~~~ lanesMask w (a.toNat % 4)) ||| m
      | .clr => old &&& ~~~ m
      | .set => old ||| m
      | .inv => old ^^^ m
    ∃ t, exec i s = .next t ∧ arbitratedCommit s t d w a ((cand &&& d.wmask) ||| (old &&& ~~~ d.wmask))

/-- The checks every bus write begins with (R100): halted is no step, an access that is not contained is refused, an
unmapped word is fatal, and a register marked read-only drops the write through any view: logged, answered Policy, no
other change. -/
def Obligations.WriteChecks : Prop :=
  ∀ (i : Instr) (s : State) (w : Width) (op : OpCode) (a v : Word), writeForm i = some (w, op, a, v) →
    wellFormedConfig s.cfg = true →
    (s.halted = true → exec i s = .fault .halted) ∧
    (s.halted = false → 4 < a.toNat % 4 + widthBytes w → exec i s = .refused .misalignedOrBadWidth) ∧
    (s.halted = false → a.toNat % 4 + widthBytes w ≤ 4 → busLookup s.cfg a = none →
      exec i s = .next { s with halted := true, response := .fatal, events := [.fatalUnsupportedRegister a .write] }) ∧
    (∀ d op', s.halted = false → a.toNat % 4 + widthBytes w ≤ 4 → busLookup s.cfg a = some (d, op') →
      d.policy = .ro →
      exec i s = .next { s with response := .policyWrite, events := [.logPolicyViolation a .write d.name] })

/-- A write can change neither a bit outside the write mask nor, outside Stage2, a protected bit of the register it
addresses; only the full reset it may trigger can (R104, R105). -/
def Obligations.WriteMaskIsRespected : Prop :=
  ∀ (i : Instr) (s t : State) (w : Width) (op op' : OpCode) (a v : Word) (d : Descriptor),
    writeForm i = some (w, op, a, v) → wellFormedConfig s.cfg = true → memoryWf s.mem →
    busLookup s.cfg a = some (d, op') → exec i s = .next t → Event.requestCpuReset ∉ t.events →
    cell t d.base &&& ~~~ d.wmask = cell s d.base &&& ~~~ d.wmask ∧
    (s.unlock ≠ .stage2 → cell t d.base &&& d.protmask = cell s d.base &&& d.protmask)

/-- The bits of a written value above 8 * width are ignored (R45). -/
def Obligations.HighValueBitsAreIgnored : Prop :=
  ∀ (s : State) (a v v' : Word),
    (v &&& 0xFF#32 = v' &&& 0xFF#32 →
      exec (.wrB a v) s = exec (.wrB a v') s ∧ exec (.wrcB a v) s = exec (.wrcB a v') s ∧
      exec (.wrsB a v) s = exec (.wrsB a v') s ∧ exec (.wriB a v) s = exec (.wriB a v') s) ∧
    (v &&& 0xFFFF#32 = v' &&& 0xFFFF#32 →
      exec (.wrH a v) s = exec (.wrH a v') s ∧ exec (.wrcH a v) s = exec (.wrcH a v') s ∧
      exec (.wrsH a v) s = exec (.wrsH a v') s ∧ exec (.wriH a v) s = exec (.wriH a v') s)

/-- The same invert twice (WRI.B, WRI.H, WRI.W; R116 to R118), of a register of any role: where no bit is protected or the
block is not in Stage2, every cell is as before, STAT too when it followed the registers. In Stage2 the first write to a
register with protected bits consumes the unlock, so the second restores the unprotected bits and leaves the protected
ones as the first wrote them. -/
def Obligations.InvertTwiceRestores : Prop :=
  ∀ (i : Instr) (s t u : State) (w : Width) (a v : Word) (d : Descriptor), writeForm i = some (w, .inv, a, v) →
    wellFormedConfig s.cfg = true → memoryWf s.mem → busLookup s.cfg a = some (d, .inv) → d.policy ≠ .ro →
    exec i s = .next t → exec i t = .next u →
    ((d.protmask = 0#32 ∨ s.unlock ≠ .stage2) →
      (∀ o, o ≠ s.cfg.statOff → cell u o = cell s o) ∧
      ((isInterruptRole d.role = false ∨ consistent s) → cell u s.cfg.statOff = cell s s.cfg.statOff)) ∧
    (d.protmask ≠ 0#32 → s.unlock = .stage2 → Event.requestCpuReset ∉ t.events →
      cell u d.base &&& ~~~ d.protmask = cell s d.base &&& ~~~ d.protmask ∧
      cell u d.base &&& d.protmask = cell t d.base &&& d.protmask ∧
      ∀ o, o ≠ d.base → cell u o = cell s o)

/-- A mixed-width sequence sees one little-endian word (R43): four 1-byte writes at lanes 0 to 3, then a 4-byte read, of
a plain read-write register with a full write mask and no forcing. -/
def Obligations.FourByteWritesMakeAWord : Prop :=
  ∀ (s t0 t1 t2 t3 t : State) (d : Descriptor) (b0 b1 b2 b3 : Byte), wellFormedConfig s.cfg = true →
    memoryWf s.mem → d ∈ s.cfg.descTable → d.role = .plain → d.policy = .rw → d.wmask = 0xFFFFFFFF#32 →
    d.protmask = 0#32 → d.rforceMask = 0#32 →
    exec (.wrB d.base (b0.setWidth 32)) s = .next t0 → exec (.wrB (d.base + 1#32) (b1.setWidth 32)) t0 = .next t1 →
    exec (.wrB (d.base + 2#32) (b2.setWidth 32)) t1 = .next t2 →
    exec (.wrB (d.base + 3#32) (b3.setWidth 32)) t2 = .next t3 → exec (.rdW d.base) t3 = .next t →
    t.response = .okRead (.word (b3 ++ b2 ++ b1 ++ b0))

/-! ### Errors -/

/-- UnsupportedRegister (R186): a bus access, of either direction, to a word with no descriptor reports address and
direction, halts and answers Fatal, everything else kept; while halted nothing but POR has a step; POR has one. -/
def Obligations.UnsupportedRegisterHalts : Prop :=
  ∀ s : State, wellFormedConfig s.cfg = true →
    (∀ (i : Instr) (w : Width) (op : OpCode) (a : Word), readForm i = some (w, op, a) → s.halted = false →
      a.toNat % 4 + widthBytes w ≤ 4 → busLookup s.cfg a = none →
      exec i s = .next { s with halted := true, response := .fatal, events := [.fatalUnsupportedRegister a .read] }) ∧
    (∀ (i : Instr) (w : Width) (op : OpCode) (a v : Word), writeForm i = some (w, op, a, v) → s.halted = false →
      a.toNat % 4 + widthBytes w ≤ 4 → busLookup s.cfg a = none →
      exec i s = .next { s with halted := true, response := .fatal, events := [.fatalUnsupportedRegister a .write] }) ∧
    (∀ i : Instr, s.halted = true → i ≠ .por → exec i s = .fault .halted) ∧
    (∃ t, exec .por s = .next t ∧ t.halted = false)

/-- PolicyViolation (R187), and which check decides (R191, which the spec marks as derived), for a bus access of either
direction: halted, then width and containment, then lookup, then policy; a violation is logged and answered and changes
nothing; a performed access reports nothing and leaves the block running. -/
def Obligations.FirstCheckDecides : Prop :=
  ∀ (i : Instr) (s : State) (w : Width) (op : OpCode) (a : Word) (dir : Dir),
    (readForm i = some (w, op, a) ∧ dir = .read ∨ ∃ v, writeForm i = some (w, op, a, v) ∧ dir = .write) →
    wellFormedConfig s.cfg = true →
    if s.halted = true then exec i s = .fault .halted
    else if 4 < a.toNat % 4 + widthBytes w then exec i s = .refused .misalignedOrBadWidth
    else
      match busLookup s.cfg a with
      | none => ∃ t, exec i s = .next t ∧ t.response = .fatal ∧ t.halted = true ∧
          t.events = [.fatalUnsupportedRegister a dir]
      | some (d, op') =>
        if (dir = .write ∧ d.policy = .ro) ∨ (dir = .read ∧ op' = .assign ∧ d.policy = .wo) ∨
            (dir = .read ∧ op' ≠ .assign ∧ d.aliasRead = .disallowed) then
          ∃ t, exec i s = .next t ∧ t.events = [.logPolicyViolation a dir d.name] ∧ samePorts s t ∧
            t.mem = s.mem ∧ t.unlock = s.unlock ∧ t.coreIpl = s.coreIpl ∧ t.arbCount = s.arbCount ∧
            (dir = .write → t.response = .policyWrite) ∧
            (dir = .read → t.response = .policyRead (lanes (cell s d.base) w (a.toNat % 4)))
        else
          ∃ t, exec i s = .next t ∧ t.halted = false ∧
            (dir = .write → t.response = .okWrite) ∧ (dir = .read → ∃ v, t.response = .okRead v) ∧
            (∀ e ∈ t.events, (∀ x y z, e ≠ .logPolicyViolation x y z) ∧ ∀ x y, e ≠ .fatalUnsupportedRegister x y)

/-- Only an unmapped bus access halts the block (R19, R186): from a running state every step that is not one leaves it
running. -/
def Obligations.OnlyUnmappedAccessHalts : Prop :=
  ∀ (i : Instr) (s t : State), exec i s = .next t → t.halted = true →
    ∃ (w : Width) (op : OpCode) (a : Word), busLookup s.cfg a = none ∧
      (readForm i = some (w, op, a) ∨ ∃ v, writeForm i = some (w, op, a, v))

/-! ### Unlock and protected writes -/

/-- The unlock state after a completed write that does not reset the block, as `next_unlock` (R150) and the table of R151
give it, for every descriptor, view and width. -/
def Obligations.UnlockFollowsTheTable : Prop :=
  ∀ (i : Instr) (s t : State) (w : Width) (op : OpCode) (a v : Word) (d : Descriptor),
    writeForm i = some (w, op, a, v) → wellFormedConfig s.cfg = true → memoryWf s.mem →
    busLookup s.cfg a = some (d, op) → d.policy ≠ .ro → exec i s = .next t → Event.requestCpuReset ∉ t.events →
    (d.role = .key →
      (s.unlock = .locked → cell t d.base = s.cfg.magic1 → t.unlock = .stage1) ∧
      (s.unlock = .locked → cell t d.base ≠ s.cfg.magic1 → t.unlock = .locked) ∧
      (s.unlock = .stage1 → cell t d.base = s.cfg.magic2 → t.unlock = .stage2) ∧
      (s.unlock = .stage1 → cell t d.base ≠ s.cfg.magic2 → t.unlock = .locked) ∧
      (s.unlock = .stage2 → t.unlock = .locked)) ∧
    (d.role ≠ .key → (d.role = .rswrst ∨ d.protmask ≠ 0#32) → t.unlock = .locked) ∧
    (d.role ≠ .key → d.role ≠ .rswrst → d.protmask = 0#32 → t.unlock = s.unlock)

/-- Every other transaction leaves the unlock state alone (R155): a read, a dropped write, a write to a register that is
neither KEY nor protected, RAISE, CLEAR, PUSH and ARB. -/
def Obligations.OtherTransactionsKeepUnlock : Prop :=
  ∀ (i : Instr) (s t : State), exec i s = .next t → i ≠ .por → (∀ k, i ≠ .fullreset k) →
    (∀ w op a v d op', writeForm i = some (w, op, a, v) → busLookup s.cfg a = some (d, op') →
      d.policy = .ro ∨ (d.role ≠ .key ∧ d.role ≠ .rswrst ∧ d.protmask = 0#32)) →
    t.unlock = s.unlock

/-- UnlockViolation (R153): a protected write while Locked or Stage1 keeps the protected bits, writes the writable
unprotected ones, tells the hook the word it committed, relocks, logs nothing and answers Ok. -/
def Obligations.UnlockViolationIsSilent : Prop :=
  ∀ (i : Instr) (s : State) (w : Width) (op : OpCode) (a v : Word) (d : Descriptor),
    writeForm i = some (w, op, a, v) → s.halted = false → wellFormedConfig s.cfg = true → memoryWf s.mem →
    a.toNat % 4 + widthBytes w ≤ 4 → busLookup s.cfg a = some (d, op) → d.policy ≠ .ro →
    (d.role = .rswrst ∨ d.protmask ≠ 0#32) → s.unlock ≠ .stage2 →
    let old := cell s d.base
    let m := laneOperand v w (a.toNat % 4)
    let cand :=
      match op with
      | .assign => (old &&& ~~~ lanesMask w (a.toNat % 4)) ||| m
      | .clr => old &&& ~~~ m
      | .set => old ||| m
      | .inv => old ^^^ m
    ∃ t, exec i s = .next t ∧ t.response = .okWrite ∧ t.unlock = .locked ∧
      cell t d.base &&& d.protmask = old &&& d.protmask ∧
      cell t d.base &&& (d.wmask &&& ~~~ d.protmask) = cand &&& (d.wmask &&& ~~~ d.protmask) ∧
      cell t d.base &&& ~~~ d.wmask = old &&& ~~~ d.wmask ∧
      t.events = hookEvents d.whook (fun h => .writeHook h d.base old (cell t d.base))

/-- Writes to RSWRST, row by row (R154): outside Stage2 nothing but a relock; in Stage2 with no trigger bit a commit and a
relock; in Stage2 with a trigger bit the full reset: the word not committed, every cell at its power-on value but STAT,
which the arbitration that ends the reset publishes (R221), `requestCpuReset` emitted once. -/
def Obligations.ResetTriggerRegister : Prop :=
  ∀ (i : Instr) (s : State) (w : Width) (op : OpCode) (a v : Word) (d : Descriptor),
    writeForm i = some (w, op, a, v) → s.halted = false → wellFormedConfig s.cfg = true → memoryWf s.mem →
    a.toNat % 4 + widthBytes w ≤ 4 → busLookup s.cfg a = some (d, op) → d.role = .rswrst →
    let old := cell s d.base
    let m := laneOperand v w (a.toNat % 4)
    let cand :=
      match op with
      | .assign => (old &&& ~~~ lanesMask w (a.toNat % 4)) ||| m
      | .clr => old &&& ~~~ m
      | .set => old ||| m
      | .inv => old ^^^ m
    let new := (cand &&& d.wmask) ||| (old &&& ~~~ d.wmask)
    ∃ t, exec i s = .next t ∧ t.response = .okWrite ∧ t.unlock = .locked ∧ samePorts s t ∧
      (s.unlock ≠ .stage2 → (∀ o, cell t o = cell s o) ∧ t.coreIpl = s.coreIpl ∧ t.arbCount = s.arbCount ∧
        Event.requestCpuReset ∉ t.events) ∧
      (s.unlock = .stage2 → new &&& s.cfg.resetTriggerMask = 0#32 →
        (∀ o, cell t o = if o = d.base then new else cell s o) ∧ t.coreIpl = s.coreIpl ∧ t.arbCount = s.arbCount ∧
        Event.requestCpuReset ∉ t.events) ∧
      (s.unlock = .stage2 → new &&& s.cfg.resetTriggerMask ≠ 0#32 →
        (∀ o, o ≠ s.cfg.statOff → cell t o = powerOnValue s.cfg o) ∧
        cell t s.cfg.statOff = statWord s.cfg (scan t) ∧ t.coreIpl = signalled (scan t) ∧
        t.events.count .requestCpuReset = 1 ∧ Event.periphReset ∈ t.events ∧ t.arbCount = s.arbCount + 1)

/-- A reset is asked of the core only by a validated soft reset (R176, R154): of the transactions an agent can send, only a
write to RSWRST, in Stage2, whose committed word would have a trigger bit emits `requestCpuReset`. The word is that of the
view the address selects, under the whole write mask, as Stage2 has it (R102 to R105). -/
def Obligations.CpuResetNeedsTheUnlock : Prop :=
  ∀ (i : Instr) (s t : State), wellFormedConfig s.cfg = true → requestable i = true → exec i s = .next t →
    Event.requestCpuReset ∈ t.events →
    ∃ w op a v d op', writeForm i = some (w, op, a, v) ∧ s.halted = false ∧ a.toNat % 4 + widthBytes w ≤ 4 ∧
      busLookup s.cfg a = some (d, op') ∧ d.policy ≠ .ro ∧
      let old := cell s d.base
      let m := laneOperand v w (a.toNat % 4)
      let cand :=
        match op' with
        | .assign => (old &&& ~~~ lanesMask w (a.toNat % 4)) ||| m
        | .clr => old &&& ~~~ m
        | .set => old ||| m
        | .inv => old ^^^ m
      resetWrite s d ((cand &&& d.wmask) ||| (old &&& ~~~ d.wmask))

/-- The software reset sequence from Locked (the source's example S9; R157 and R223, which the spec marks as derived):
MAGIC1 and MAGIC2 to KEY, then the trigger mask to RSWRST. Every register but STAT holds its power-on table value, the
block is Locked and running, and the three transactions emit `requestCpuReset` exactly once. -/
def Obligations.SoftwareResetSequence : Prop :=
  ∀ s : State, wellFormedConfig s.cfg = true → memoryWf s.mem → s.halted = false → s.unlock = .locked →
    s.cfg.resetTriggerMask ≠ 0#32 →
    ∃ t1 t2 t3, exec (.wrW s.cfg.keyOff s.cfg.magic1) s = .next t1 ∧ t1.unlock = .stage1 ∧
      exec (.wrW s.cfg.keyOff s.cfg.magic2) t1 = .next t2 ∧ t2.unlock = .stage2 ∧
      exec (.wrW s.cfg.rswrstOff s.cfg.resetTriggerMask) t2 = .next t3 ∧
      t3.unlock = .locked ∧ t3.halted = false ∧
      (∀ o, o ≠ s.cfg.statOff → cell t3 o = powerOnValue s.cfg o) ∧
      (t1.events ++ t2.events ++ t3.events).count .requestCpuReset = 1

/-! ### The arbiter -/

/-- The scan (R131, R139). With ARB_LEVEL0_WINS = false: nothing when every armed source has level 0, else the armed
source of highest level, the lowest index among equals. With true, the same, but when every armed source has level 0 the
lowest armed index wins at level 0. -/
def Obligations.ScanFindsTheWinner : Prop :=
  ∀ s : State,
    (∀ i, winner s i → scan s = { any := true, vec := i, lvl := level s i }) ∧
    ((∀ i, i < s.cfg.numSources → armed s i = true → level s i = 0#3) →
      (s.cfg.arbLevel0Wins = false → scan s = { any := false, vec := 0, lvl := 0#3 }) ∧
      (s.cfg.arbLevel0Wins = true →
        ((∀ i, i < s.cfg.numSources → armed s i = false) → scan s = { any := false, vec := 0, lvl := 0#3 }) ∧
        (∀ i, i < s.cfg.numSources → armed s i = true → (∀ j, j < i → armed s j = false) →
          scan s = { any := true, vec := i, lvl := 0#3 }))) ∧
    ((∃ i, i < s.cfg.numSources ∧ armed s i = true ∧ level s i ≠ 0#3) → ∃ i, winner s i)

/-- The accessors of R25 by the bits they read, and the registers R22 to R24 put them in: bit j of IFS(k) and of IEC(k) is
the flag and the enable of source 32k + j; byte lane j of IPC(k) is the priority field of source 4k + j, its three bits
from IPL_LSB the level, its two bits from ISL_LSB the sub-priority. Pending is the flag; armed is flag and enable; every
source has its three registers. -/
def Obligations.SourceAccessorsReadTheirBits : Prop :=
  ∀ s : State, wellFormedConfig s.cfg = true →
    (∀ d ∈ s.cfg.descTable,
      (∀ k j, d.role = .ifs k → j < 32 → 32 * k + j < s.cfg.numSources → s.cfg.ifsOff[k]? = some d.base ∧
        flag s (32 * k + j) = (cell s d.base).getLsbD j) ∧
      (∀ k j, d.role = .iec k → j < 32 → 32 * k + j < s.cfg.numSources → s.cfg.iecOff[k]? = some d.base ∧
        enable s (32 * k + j) = (cell s d.base).getLsbD j) ∧
      (∀ k j, d.role = .ipc k → j < 4 → 4 * k + j < s.cfg.numSources → s.cfg.ipcOff[k]? = some d.base ∧
        pfield s (4 * k + j) = (cell s d.base).extractLsb' (8 * j) 8 ∧
        (∀ b, b < 3 → (level s (4 * k + j)).getLsbD b = (cell s d.base).getLsbD (8 * j + s.cfg.iplLsb + b)) ∧
        (∀ b, b < 2 → (subprio s (4 * k + j)).getLsbD b = (cell s d.base).getLsbD (8 * j + s.cfg.islLsb + b)))) ∧
    (∀ i, i < s.cfg.numSources →
      (∃ d ∈ s.cfg.descTable, d.role = .ifs (i / 32)) ∧ (∃ d ∈ s.cfg.descTable, d.role = .iec (i / 32)) ∧
      (∃ d ∈ s.cfg.descTable, d.role = .ipc (i / 4)) ∧
      pending s i = flag s i ∧ armed s i = (flag s i && enable s i))

/-- What the arbiter reads (R139, with the bits of R22 to R25), in two clauses. Two register files that agree on the flag
bits, enable bits and level bits of the sources below N arbitrate, publish and latch alike, whatever their sub-priority
bits, the bits of a priority byte outside both fields, the bits and bytes past N and every other register hold. And the
sub-priority of any source can be set to any value in its cell: it reads back, every source's flag, enable and level stay,
and the scan finds the same. -/
def Obligations.SubPriorityNeverDecides : Prop :=
  ∀ s : State, wellFormedConfig s.cfg = true → memoryWf s.mem →
    (∀ t : State, t.cfg = s.cfg → memoryWf t.mem →
      (∀ d ∈ s.cfg.descTable, ∀ n, n < 32 → scannedBit s.cfg d n = true →
        (cell t d.base).getLsbD n = (cell s d.base).getLsbD n) →
      scan t = scan s ∧
      ∀ s' t', exec .arb s = .next s' → exec .arb t = .next t' →
        cell t' s.cfg.statOff = cell s' s.cfg.statOff ∧ t'.coreIpl = s'.coreIpl) ∧
    (∀ (i : Nat) (p : BitVec 2), i < s.cfg.numSources →
      let o := ipcOffset s.cfg (i / 4)
      let k := 8 * (i % 4) + s.cfg.islLsb
      let t := setCell s o ((cell s o &&& ~~~ (3#32 <<< k)) ||| (p.setWidth 32 <<< k))
      subprio t i = p ∧
      (∀ j, j < s.cfg.numSources → flag t j = flag s j ∧ enable t j = enable s j ∧ level t j = level s j) ∧
      scan t = scan s)

/-- ARB (R132, R133, R134): STAT is written whole, the count goes up by one, the level is latched, an assert is emitted on
a change to a non-zero level and a deassert on a change to none, and nothing else changes. -/
def Obligations.ArbPublishesAndSignals : Prop :=
  ∀ s : State, s.halted = false → memoryWf s.mem →
    let r := scan s
    ∃ t, exec .arb s = .next t ∧ samePorts s t ∧ t.unlock = s.unlock ∧ t.response = .none ∧
      t.arbCount = s.arbCount + 1 ∧
      (∀ o, cell t o =
        if o = s.cfg.statOff then
          (if r.any = true then (r.lvl.setWidth 32 <<< s.cfg.statPriLsb) ||| (BitVec.ofNat 32 r.vec <<< s.cfg.statVecLsb)
           else 0#32)
        else cell s o) ∧
      (r.any = true → r.lvl ≠ 0#3 → r.lvl ≠ s.coreIpl →
        t.coreIpl = r.lvl ∧ t.events = [.assertHardwareInterrupt r.lvl]) ∧
      (r.any = true → r.lvl ≠ 0#3 → r.lvl = s.coreIpl → t.coreIpl = s.coreIpl ∧ t.events = []) ∧
      ((r.any = false ∨ r.lvl = 0#3) → s.coreIpl ≠ 0#3 → t.coreIpl = 0#3 ∧ t.events = [.deassertHardwareInterrupt]) ∧
      ((r.any = false ∨ r.lvl = 0#3) → s.coreIpl = 0#3 → t.coreIpl = 0#3 ∧ t.events = [])

/-- A second arbitration right after a first changes nothing but the count and emits nothing (R134). -/
def Obligations.SecondArbIsQuiet : Prop :=
  ∀ s t : State, wellFormedConfig s.cfg = true → memoryWf s.mem → exec .arb s = .next t →
    exec .arb t = .next { t with arbCount := t.arbCount + 1, events := [] }

/-- RAISE (R135): a source already flagged is left alone, count included; else its flag bit is set in its cell, every
other flag, enable and level is as before, and the arbitration of the result is published. -/
def Obligations.RaiseSetsTheFlag : Prop :=
  ∀ (s : State) (id : Word), s.halted = false → wellFormedConfig s.cfg = true → memoryWf s.mem →
    id.toNat < s.cfg.numSources →
    (flag s id.toNat = true → exec (.raise id) s = .next { s with response := .none, events := [] }) ∧
    (flag s id.toNat = false →
      ∃ t, exec (.raise id) s = .next t ∧ samePorts s t ∧ t.unlock = s.unlock ∧ t.response = .none ∧
        t.arbCount = s.arbCount + 1 ∧
        (∀ o, o ≠ s.cfg.statOff → cell t o =
          if o = ifsOffset s.cfg (id.toNat / 32) then cell s o ||| (1#32 <<< (id.toNat % 32)) else cell s o) ∧
        cell t s.cfg.statOff = statWord s.cfg (scan t) ∧ t.coreIpl = signalled (scan t) ∧
        t.events = arbEvents s.coreIpl (scan t))

/-- CLEAR (R136): a source not flagged is left alone, count included; else its flag bit is cleared in its cell, every
other cell is as before, and the arbitration of the result is published. -/
def Obligations.ClearClearsTheFlag : Prop :=
  ∀ (s : State) (id : Word), s.halted = false → wellFormedConfig s.cfg = true → memoryWf s.mem →
    id.toNat < s.cfg.numSources →
    (flag s id.toNat = false → exec (.clear id) s = .next { s with response := .none, events := [] }) ∧
    (flag s id.toNat = true →
      ∃ t, exec (.clear id) s = .next t ∧ samePorts s t ∧ t.unlock = s.unlock ∧ t.response = .none ∧
        t.arbCount = s.arbCount + 1 ∧
        (∀ o, o ≠ s.cfg.statOff → cell t o =
          if o = ifsOffset s.cfg (id.toNat / 32) then cell s o &&& ~~~ (1#32 <<< (id.toNat % 32)) else cell s o) ∧
        cell t s.cfg.statOff = statWord s.cfg (scan t) ∧ t.coreIpl = signalled (scan t) ∧
        t.events = arbEvents s.coreIpl (scan t))

/-- RAISE and CLEAR of an identifier that is no source are refused (R137). -/
def Obligations.SourceOutOfRangeIsRefused : Prop :=
  ∀ (s : State) (id : Word), s.halted = false → s.cfg.numSources ≤ id.toNat →
    exec (.raise id) s = .refused .sourceOutOfRange ∧ exec (.clear id) s = .refused .sourceOutOfRange

/-- Round trip (the source's example S1; R138, which the spec marks as derived): after a raise and a clear of a source that was not flagged, with nothing between, every cell,
the published state and the latched level are as before the raise. -/
def Obligations.RaiseThenClearRoundTrip : Prop :=
  ∀ (s t u : State) (id : Word), invariant s → flag s id.toNat = false →
    exec (.raise id) s = .next t → exec (.clear id) t = .next u →
    (∀ o, cell u o = cell s o) ∧ u.coreIpl = s.coreIpl ∧ u.arbCount = s.arbCount + 2

/-- Arbitration runs at exactly the points of R130: once in a completed write to an IFS, IEC or IPC register, in a RAISE or
CLEAR that changes a flag, in a soft reset and in ARB itself; nowhere else. (After a power-on reset the count is free, log
entry 6.) -/
def Obligations.ArbitrationPoints : Prop :=
  ∀ (i : Instr) (s t : State), wellFormedConfig s.cfg = true → exec i s = .next t → i ≠ .por → i ≠ .fullreset .por →
    (t.arbCount = s.arbCount ∨ t.arbCount = s.arbCount + 1) ∧
    (t.arbCount = s.arbCount + 1 ↔
      i = .arb ∨ i = .fullreset .soft ∨
      (∃ id, i = .raise id ∧ flag s id.toNat = false) ∨ (∃ id, i = .clear id ∧ flag s id.toNat = true) ∨
      (∃ w op a v d op', writeForm i = some (w, op, a, v) ∧ busLookup s.cfg a = some (d, op') ∧
        (isInterruptRole d.role = true ∨ Event.requestCpuReset ∈ t.events)))

/-- The core is told of a level only on a change to it (R133, R176): an assert carries the level now latched, which is not
0, and outside a reset the latched level was another. -/
def Obligations.AssertOnlyOnChange : Prop :=
  ∀ (i : Instr) (s t : State) (l : Level), exec i s = .next t → Event.assertHardwareInterrupt l ∈ t.events →
    t.coreIpl = l ∧ l ≠ 0#3 ∧ (s.coreIpl ≠ l ∨ Event.periphReset ∈ t.events)

/-! ### The peripheral port -/

/-- PUSH (R171): a masked update of the cell of a PLAIN or OFF register at its base offset, and nothing else; any other
target is refused. -/
def Obligations.PushUpdatesTheCell : Prop :=
  ∀ (s : State) (off v m : Word), s.halted = false → memoryWf s.mem →
    (∀ d, lookup s.cfg off = some (d, .assign) → (d.role = .plain ∨ ∃ k, d.role = .off k) →
      ∃ t, exec (.push off v m) s = .next t ∧
        (∀ o, cell t o = if o = off then (cell s off &&& ~~~ m) ||| (v &&& m) else cell s o) ∧
        samePorts s t ∧ t.unlock = s.unlock ∧ t.coreIpl = s.coreIpl ∧ t.arbCount = s.arbCount ∧
        t.response = .none ∧ t.events = []) ∧
    ((∀ d, lookup s.cfg off = some (d, .assign) → d.role ≠ .plain ∧ ∀ k, d.role ≠ .off k) →
      exec (.push off v m) s = .refused .pushTarget)

/-! ### Reset -/

/-- POR (R220) from any state, halted or not: every cell but STAT's at its power-on value, Locked, running; STAT and the
latched level as the arbitration of those cells gives them; the events are PeriphReset and at most the arbitration's.
While halted no other operation has a step. -/
def Obligations.PowerOnReset : Prop :=
  ∀ s : State, wellFormedConfig s.cfg = true →
    ∃ t, exec .por s = .next t ∧ t.cfg = s.cfg ∧ t.inbox = s.inbox ∧ t.halted = false ∧ t.unlock = .locked ∧
      t.response = .none ∧ memoryWf t.mem ∧
      (∀ o, o ≠ s.cfg.statOff → cell t o = powerOnValue s.cfg o) ∧
      cell t s.cfg.statOff = statWord s.cfg (scan t) ∧ t.coreIpl = signalled (scan t) ∧
      t.events = [.periphReset] ++ arbEvents 0#3 (scan t) ∧
      (s.halted = true → ∀ i : Instr, i ≠ .por → exec i s = .fault .halted)

/-- FULLRESET of either kind while running (R221, and R32 row by row): every cell but STAT's at its power-on value, Locked,
STAT and the latched level as the arbitration of those cells gives them; PeriphReset, then requestCpuReset on a soft
reset only, then at most the arbitration's event; a soft reset leaves `halted` false and counts one arbitration. POR ends
in the same cells, unlock state and level, running. -/
def Obligations.FullResetSequence : Prop :=
  ∀ s : State, wellFormedConfig s.cfg = true → s.halted = false →
    ∃ p t1 t2, exec .por s = .next p ∧ exec (.fullreset .por) s = .next t1 ∧ exec (.fullreset .soft) s = .next t2 ∧
      (∀ o, o ≠ s.cfg.statOff → cell t1 o = powerOnValue s.cfg o) ∧
      cell t1 s.cfg.statOff = statWord s.cfg (scan t1) ∧ t1.coreIpl = signalled (scan t1) ∧
      t1.mem = p.mem ∧ t2.mem = p.mem ∧ p.unlock = .locked ∧ t1.unlock = .locked ∧ t2.unlock = .locked ∧
      t1.coreIpl = p.coreIpl ∧ t2.coreIpl = p.coreIpl ∧ p.halted = false ∧ t1.halted = false ∧ t2.halted = false ∧
      t1.cfg = s.cfg ∧ t2.cfg = s.cfg ∧ t1.inbox = s.inbox ∧ t2.inbox = s.inbox ∧ t2.draws = s.draws ∧
      t2.arbCount = s.arbCount + 1 ∧ t1.response = .none ∧ t2.response = .none ∧
      t1.events = [.periphReset] ++ arbEvents 0#3 (scan t1) ∧
      t2.events = [.periphReset, .requestCpuReset] ++ arbEvents 0#3 (scan t2)

/-- The state the model starts from is what POR leaves under the example configuration (log entry 2), the count apart,
which the spec does not specify (log entries 6, 7). -/
def Obligations.ResetStateIsThePowerOnState : Prop :=
  ∃ t, exec .por State.reset = .next t ∧ t.mem = State.reset.mem ∧ t.unlock = State.reset.unlock ∧
    t.coreIpl = State.reset.coreIpl ∧ t.halted = State.reset.halted ∧ t.cfg = State.reset.cfg ∧
    t.events = [.periphReset]

/-! ### Invariants -/

/-- The reset state meets the invariant. -/
def Obligations.ResetMeetsTheInvariant : Prop :=
  invariant State.reset

/-- Every step keeps the invariant: the configuration stays well formed, the Register File canonical and listing base cells
only, and STAT and the latched level follow the registers. -/
def Obligations.StepKeepsTheInvariant : Prop :=
  ∀ s t : State, invariant s → step s = .next t → invariant t

/-- After every step the published state is that of R31, which the spec marks as derived from its rules: the maximum level over the armed sources of non-zero level, the
lowest index achieving it, the latched level equal to it; all 0 when there is none. -/
def Obligations.PublishedPriorityIsTheMaximum : Prop :=
  ∀ s t : State, invariant s → s.cfg.arbLevel0Wins = false → step s = .next t → published t

/-- No transaction changes the configuration, and an operation leaves the transactions not yet run in their order (R5, R13,
R49). -/
def Obligations.OperationsKeepConfigurationAndQueue : Prop :=
  ∀ (i : Instr) (s t : State), exec i s = .next t → t.cfg = s.cfg ∧ t.inbox = s.inbox

/-- The letter of a bus operation's mnemonic is redundant: what the access does is decided by direction, width, address and
value (the model's reading of R61 and R72, log entry 8). -/
def Obligations.LetterIsRedundant : Prop :=
  ∀ (i j : Instr) (s : State) (w : Width) (op op' : OpCode) (a v : Word),
    (readForm i = some (w, op, a) → readForm j = some (w, op', a) → exec i s = exec j s) ∧
    (writeForm i = some (w, op, a, v) → writeForm j = some (w, op', a, v) → exec i s = exec j s)
end

