-- ==== Sys2Proof/Laws/Decode.lean ====
section
/-! SUPPORT. The fields of a packed packet, and a packet is packed from its fields. -/

namespace Sys2Proof

/-- The bits of a packed packet, from the lowest: header, first, second, third operand word. -/
theorem pack_getLsbD (h : BitVec 8) (a b c : Word) (i : Nat) :
    (pack h a b c).getLsbD i =
      if i < 8 then h.getLsbD i
      else if i < 40 then a.getLsbD (i - 8)
      else if i < 72 then b.getLsbD (i - 40)
      else c.getLsbD (i - 72) := by
  show (c ++ b ++ a ++ h : BitVec (32 + 32 + 32 + 8)).getLsbD i = _
  simp only [BitVec.getLsbD_append]
  by_cases h1 : i < 8
  · simp [h1]
  by_cases h2 : i < 40
  · have : i - 8 < 32 := by omega
    simp [h1, h2, this]
  by_cases h3 : i < 72
  · have h4 : ¬ i - 8 < 32 := by omega
    have h5 : i - 8 - 32 < 32 := by omega
    have h6 : i - 8 - 32 = i - 40 := by omega
    simp only [h1, h2, h3, h4, h5, if_true, if_false]
    rw [h6]
  · have h4 : ¬ i - 8 < 32 := by omega
    have h5 : ¬ i - 8 - 32 < 32 := by omega
    have h6 : i - 8 - 32 - 32 = i - 72 := by omega
    simp only [h1, h2, h3, h4, h5, if_false]
    rw [h6]

@[simp] theorem packetHeader_pack (h : BitVec 8) (a b c : Word) : packetHeader (pack h a b c) = h := by
  apply BitVec.eq_of_getLsbD_eq
  intro i hi
  simp [packetHeader, pack_getLsbD, hi]

@[simp] theorem packetA_pack (h : BitVec 8) (a b c : Word) : packetA (pack h a b c) = a := by
  apply BitVec.eq_of_getLsbD_eq
  intro i hi
  have h2 : 8 + i < 40 := by omega
  simp [packetA, pack_getLsbD, hi, h2]

@[simp] theorem packetB_pack (h : BitVec 8) (a b c : Word) : packetB (pack h a b c) = b := by
  apply BitVec.eq_of_getLsbD_eq
  intro i hi
  have h2 : ¬ 40 + i < 8 := by omega
  have h3 : 40 + i < 72 := by omega
  simp [packetB, pack_getLsbD, hi, h2, h3]

@[simp] theorem packetC_pack (h : BitVec 8) (a b c : Word) : packetC (pack h a b c) = c := by
  apply BitVec.eq_of_getLsbD_eq
  intro i hi
  have h2 : ¬ 72 + i < 8 := by omega
  have h3 : ¬ 72 + i < 40 := by omega
  simp [packetC, pack_getLsbD, hi, h2, h3]

/-- A packet is packed from its own fields. -/
theorem pack_fields (p : Packet) : pack (packetHeader p) (packetA p) (packetB p) (packetC p) = p := by
  apply BitVec.eq_of_getLsbD_eq
  intro i hi
  rw [pack_getLsbD]
  simp only [packetHeader, packetA, packetB, packetC, BitVec.getLsbD_extractLsb']
  by_cases h1 : i < 8
  · simp [h1]
  by_cases h2 : i < 40
  · have h4 : i - 8 < 32 := by omega
    have h5 : 8 + (i - 8) = i := by omega
    simp [h1, h2, h4, h5]
  by_cases h3 : i < 72
  · have h4 : i - 40 < 32 := by omega
    have h5 : 40 + (i - 40) = i := by omega
    simp [h1, h2, h3, h4, h5]
  · have h4 : i - 72 < 32 := by omega
    have h5 : 72 + (i - 72) = i := by omega
    simp [h1, h2, h3, h4, h5]

/-- When an operation with these unused operand words is accepted. -/
@[simp] theorem noOperand_ok (a b c : Word) (i j : Instr) :
    noOperand a b c i = .ok j ↔ (a = 0#32 ∧ b = 0#32 ∧ c = 0#32) ∧ i = j := by
  by_cases h : a = 0#32 ∧ b = 0#32 ∧ c = 0#32 <;> simp [noOperand, h]

@[simp] theorem oneOperand_ok (b c : Word) (i j : Instr) :
    oneOperand b c i = .ok j ↔ (b = 0#32 ∧ c = 0#32) ∧ i = j := by
  by_cases h : b = 0#32 ∧ c = 0#32 <;> simp [oneOperand, h]

@[simp] theorem twoOperands_ok (c : Word) (i j : Instr) : twoOperands c i = .ok j ↔ c = 0#32 ∧ i = j := by
  by_cases h : c = 0#32 <;> simp [twoOperands, h]

/-- The kinds FULLRESET is accepted with. -/
@[simp] theorem decodeKind_ok (a b c : Word) (i : Instr) :
    decodeKind a b c = .ok i ↔
      (b = 0#32 ∧ c = 0#32) ∧ ((a = 0#32 ∧ i = .fullreset .por) ∨ (a = 1#32 ∧ i = .fullreset .soft)) := by
  by_cases h : b = 0#32 ∧ c = 0#32
  · by_cases h0 : a = 0#32
    · simp [decodeKind, h, h0, eq_comm]
    · by_cases h1 : a = 1#32 <;> simp [decodeKind, h, h0, h1, eq_comm]
  · simp [decodeKind, h]

/-- A packet's header is the number the decoder matches on. -/
theorem packetHeader_of_toNat {p : Packet} {n : Nat} (h : (packetHeader p).toNat = n) :
    packetHeader p = BitVec.ofNat 8 n := by
  apply BitVec.eq_of_toNat_eq
  have := (packetHeader p).isLt
  rw [h, BitVec.toNat_ofNat]
  omega

end Sys2Proof
end

