-- ==== Sys2Proof/Laws/State.lean ====
section
/-! SUPPORT. What each update does to each field of the state: one lemma per field and update, true by rfl. -/

namespace Sys2Proof.Machine

@[simp] theorem setCell_cfg (s : State) (o v : Word) : (setCell s o v).cfg = s.cfg := rfl
@[simp] theorem setCell_mem (s : State) (o v : Word) : (setCell s o v).mem = writeMemory s.mem o.toNat v := rfl
@[simp] theorem setCell_unlock (s : State) (o v : Word) : (setCell s o v).unlock = s.unlock := rfl
@[simp] theorem setCell_coreIpl (s : State) (o v : Word) : (setCell s o v).coreIpl = s.coreIpl := rfl
@[simp] theorem setCell_halted (s : State) (o v : Word) : (setCell s o v).halted = s.halted := rfl
@[simp] theorem setCell_arbCount (s : State) (o v : Word) : (setCell s o v).arbCount = s.arbCount := rfl
@[simp] theorem setCell_draws (s : State) (o v : Word) : (setCell s o v).draws = s.draws := rfl
@[simp] theorem setCell_inbox (s : State) (o v : Word) : (setCell s o v).inbox = s.inbox := rfl
@[simp] theorem setCell_response (s : State) (o v : Word) : (setCell s o v).response = s.response := rfl
@[simp] theorem setCell_events (s : State) (o v : Word) : (setCell s o v).events = s.events := rfl

@[simp] theorem emit_cfg (s : State) (e : Event) : (emit s e).cfg = s.cfg := rfl
@[simp] theorem emit_mem (s : State) (e : Event) : (emit s e).mem = s.mem := rfl
@[simp] theorem emit_unlock (s : State) (e : Event) : (emit s e).unlock = s.unlock := rfl
@[simp] theorem emit_coreIpl (s : State) (e : Event) : (emit s e).coreIpl = s.coreIpl := rfl
@[simp] theorem emit_halted (s : State) (e : Event) : (emit s e).halted = s.halted := rfl
@[simp] theorem emit_arbCount (s : State) (e : Event) : (emit s e).arbCount = s.arbCount := rfl
@[simp] theorem emit_draws (s : State) (e : Event) : (emit s e).draws = s.draws := rfl
@[simp] theorem emit_inbox (s : State) (e : Event) : (emit s e).inbox = s.inbox := rfl
@[simp] theorem emit_response (s : State) (e : Event) : (emit s e).response = s.response := rfl
@[simp] theorem emit_events (s : State) (e : Event) : (emit s e).events = s.events ++ [e] := rfl

@[simp] theorem respond_cfg (s : State) (r : Response) : (respond s r).cfg = s.cfg := rfl
@[simp] theorem respond_mem (s : State) (r : Response) : (respond s r).mem = s.mem := rfl
@[simp] theorem respond_unlock (s : State) (r : Response) : (respond s r).unlock = s.unlock := rfl
@[simp] theorem respond_coreIpl (s : State) (r : Response) : (respond s r).coreIpl = s.coreIpl := rfl
@[simp] theorem respond_halted (s : State) (r : Response) : (respond s r).halted = s.halted := rfl
@[simp] theorem respond_arbCount (s : State) (r : Response) : (respond s r).arbCount = s.arbCount := rfl
@[simp] theorem respond_draws (s : State) (r : Response) : (respond s r).draws = s.draws := rfl
@[simp] theorem respond_inbox (s : State) (r : Response) : (respond s r).inbox = s.inbox := rfl
@[simp] theorem respond_response (s : State) (r : Response) : (respond s r).response = r := rfl
@[simp] theorem respond_events (s : State) (r : Response) : (respond s r).events = s.events := rfl

@[simp] theorem openTransaction_cfg (s : State) : (openTransaction s).cfg = s.cfg := rfl
@[simp] theorem openTransaction_mem (s : State) : (openTransaction s).mem = s.mem := rfl
@[simp] theorem openTransaction_unlock (s : State) : (openTransaction s).unlock = s.unlock := rfl
@[simp] theorem openTransaction_coreIpl (s : State) : (openTransaction s).coreIpl = s.coreIpl := rfl
@[simp] theorem openTransaction_halted (s : State) : (openTransaction s).halted = s.halted := rfl
@[simp] theorem openTransaction_arbCount (s : State) : (openTransaction s).arbCount = s.arbCount := rfl
@[simp] theorem openTransaction_draws (s : State) : (openTransaction s).draws = s.draws := rfl
@[simp] theorem openTransaction_inbox (s : State) : (openTransaction s).inbox = s.inbox := rfl
@[simp] theorem openTransaction_response (s : State) : (openTransaction s).response = .none := rfl
@[simp] theorem openTransaction_events (s : State) : (openTransaction s).events = [] := rfl

@[simp] theorem countArb_cfg (s : State) : (countArb s).cfg = s.cfg := rfl
@[simp] theorem countArb_mem (s : State) : (countArb s).mem = s.mem := rfl
@[simp] theorem countArb_unlock (s : State) : (countArb s).unlock = s.unlock := rfl
@[simp] theorem countArb_coreIpl (s : State) : (countArb s).coreIpl = s.coreIpl := rfl
@[simp] theorem countArb_halted (s : State) : (countArb s).halted = s.halted := rfl
@[simp] theorem countArb_arbCount (s : State) : (countArb s).arbCount = s.arbCount + 1 := rfl
@[simp] theorem countArb_draws (s : State) : (countArb s).draws = s.draws := rfl
@[simp] theorem countArb_inbox (s : State) : (countArb s).inbox = s.inbox := rfl
@[simp] theorem countArb_response (s : State) : (countArb s).response = s.response := rfl
@[simp] theorem countArb_events (s : State) : (countArb s).events = s.events := rfl

@[simp] theorem publish_cfg (s : State) (r : ArbResult) : (publish s r).cfg = s.cfg := rfl
@[simp] theorem publish_mem (s : State) (r : ArbResult) : (publish s r).mem = writeMemory s.mem s.cfg.statOff.toNat (statWord s.cfg r) := rfl
@[simp] theorem publish_unlock (s : State) (r : ArbResult) : (publish s r).unlock = s.unlock := rfl
@[simp] theorem publish_coreIpl (s : State) (r : ArbResult) : (publish s r).coreIpl = s.coreIpl := rfl
@[simp] theorem publish_halted (s : State) (r : ArbResult) : (publish s r).halted = s.halted := rfl
@[simp] theorem publish_arbCount (s : State) (r : ArbResult) : (publish s r).arbCount = s.arbCount := rfl
@[simp] theorem publish_draws (s : State) (r : ArbResult) : (publish s r).draws = s.draws := rfl
@[simp] theorem publish_inbox (s : State) (r : ArbResult) : (publish s r).inbox = s.inbox := rfl
@[simp] theorem publish_response (s : State) (r : ArbResult) : (publish s r).response = s.response := rfl
@[simp] theorem publish_events (s : State) (r : ArbResult) : (publish s r).events = s.events := rfl

@[simp] theorem clearForReset_cfg (s : State) : (clearForReset s).cfg = s.cfg := rfl
@[simp] theorem clearForReset_mem (s : State) : (clearForReset s).mem = patternMemory s.cfg := rfl
@[simp] theorem clearForReset_unlock (s : State) : (clearForReset s).unlock = .locked := rfl
@[simp] theorem clearForReset_coreIpl (s : State) : (clearForReset s).coreIpl = 0#3 := rfl
@[simp] theorem clearForReset_halted (s : State) : (clearForReset s).halted = s.halted := rfl
@[simp] theorem clearForReset_arbCount (s : State) : (clearForReset s).arbCount = s.arbCount := rfl
@[simp] theorem clearForReset_draws (s : State) : (clearForReset s).draws = s.draws := rfl
@[simp] theorem clearForReset_inbox (s : State) : (clearForReset s).inbox = s.inbox := rfl
@[simp] theorem clearForReset_response (s : State) : (clearForReset s).response = s.response := rfl
@[simp] theorem clearForReset_events (s : State) : (clearForReset s).events = s.events := rfl

@[simp] theorem freeCount_cfg (s : State) : (freeCount s).cfg = s.cfg := rfl
@[simp] theorem freeCount_mem (s : State) : (freeCount s).mem = s.mem := rfl
@[simp] theorem freeCount_unlock (s : State) : (freeCount s).unlock = s.unlock := rfl
@[simp] theorem freeCount_coreIpl (s : State) : (freeCount s).coreIpl = s.coreIpl := rfl
@[simp] theorem freeCount_halted (s : State) : (freeCount s).halted = s.halted := rfl
@[simp] theorem freeCount_arbCount (s : State) : (freeCount s).arbCount = Config.freeArbCount s.draws := rfl
@[simp] theorem freeCount_draws (s : State) : (freeCount s).draws = s.draws + 1 := rfl
@[simp] theorem freeCount_inbox (s : State) : (freeCount s).inbox = s.inbox := rfl
@[simp] theorem freeCount_response (s : State) : (freeCount s).response = s.response := rfl
@[simp] theorem freeCount_events (s : State) : (freeCount s).events = s.events := rfl

@[simp] theorem logPolicyViolation_cfg (s : State) (a : Word) (dir : Dir) (d : Descriptor) : (logPolicyViolation s a dir d).cfg = s.cfg := rfl
@[simp] theorem logPolicyViolation_mem (s : State) (a : Word) (dir : Dir) (d : Descriptor) : (logPolicyViolation s a dir d).mem = s.mem := rfl
@[simp] theorem logPolicyViolation_unlock (s : State) (a : Word) (dir : Dir) (d : Descriptor) : (logPolicyViolation s a dir d).unlock = s.unlock := rfl
@[simp] theorem logPolicyViolation_coreIpl (s : State) (a : Word) (dir : Dir) (d : Descriptor) : (logPolicyViolation s a dir d).coreIpl = s.coreIpl := rfl
@[simp] theorem logPolicyViolation_halted (s : State) (a : Word) (dir : Dir) (d : Descriptor) : (logPolicyViolation s a dir d).halted = s.halted := rfl
@[simp] theorem logPolicyViolation_arbCount (s : State) (a : Word) (dir : Dir) (d : Descriptor) : (logPolicyViolation s a dir d).arbCount = s.arbCount := rfl
@[simp] theorem logPolicyViolation_draws (s : State) (a : Word) (dir : Dir) (d : Descriptor) : (logPolicyViolation s a dir d).draws = s.draws := rfl
@[simp] theorem logPolicyViolation_inbox (s : State) (a : Word) (dir : Dir) (d : Descriptor) : (logPolicyViolation s a dir d).inbox = s.inbox := rfl
@[simp] theorem logPolicyViolation_response (s : State) (a : Word) (dir : Dir) (d : Descriptor) : (logPolicyViolation s a dir d).response = s.response := rfl
@[simp] theorem logPolicyViolation_events (s : State) (a : Word) (dir : Dir) (d : Descriptor) : (logPolicyViolation s a dir d).events = s.events ++ [.logPolicyViolation a dir d.name] := rfl

@[simp] theorem raiseFatal_cfg (s : State) (a : Word) (dir : Dir) : (raiseFatal s a dir).cfg = s.cfg := rfl
@[simp] theorem raiseFatal_mem (s : State) (a : Word) (dir : Dir) : (raiseFatal s a dir).mem = s.mem := rfl
@[simp] theorem raiseFatal_unlock (s : State) (a : Word) (dir : Dir) : (raiseFatal s a dir).unlock = s.unlock := rfl
@[simp] theorem raiseFatal_coreIpl (s : State) (a : Word) (dir : Dir) : (raiseFatal s a dir).coreIpl = s.coreIpl := rfl
@[simp] theorem raiseFatal_halted (s : State) (a : Word) (dir : Dir) : (raiseFatal s a dir).halted = true := rfl
@[simp] theorem raiseFatal_arbCount (s : State) (a : Word) (dir : Dir) : (raiseFatal s a dir).arbCount = s.arbCount := rfl
@[simp] theorem raiseFatal_draws (s : State) (a : Word) (dir : Dir) : (raiseFatal s a dir).draws = s.draws := rfl
@[simp] theorem raiseFatal_inbox (s : State) (a : Word) (dir : Dir) : (raiseFatal s a dir).inbox = s.inbox := rfl
@[simp] theorem raiseFatal_response (s : State) (a : Word) (dir : Dir) : (raiseFatal s a dir).response = .fatal := rfl
@[simp] theorem raiseFatal_events (s : State) (a : Word) (dir : Dir) : (raiseFatal s a dir).events = s.events ++ [.fatalUnsupportedRegister a dir] := rfl

@[simp] theorem taken_cfg (s : State) (rest : List Packet) : (taken s rest).cfg = s.cfg := rfl
@[simp] theorem taken_mem (s : State) (rest : List Packet) : (taken s rest).mem = s.mem := rfl
@[simp] theorem taken_unlock (s : State) (rest : List Packet) : (taken s rest).unlock = s.unlock := rfl
@[simp] theorem taken_coreIpl (s : State) (rest : List Packet) : (taken s rest).coreIpl = s.coreIpl := rfl
@[simp] theorem taken_halted (s : State) (rest : List Packet) : (taken s rest).halted = s.halted := rfl
@[simp] theorem taken_arbCount (s : State) (rest : List Packet) : (taken s rest).arbCount = s.arbCount := rfl
@[simp] theorem taken_draws (s : State) (rest : List Packet) : (taken s rest).draws = s.draws := rfl
@[simp] theorem taken_inbox (s : State) (rest : List Packet) : (taken s rest).inbox = rest := rfl
@[simp] theorem taken_response (s : State) (rest : List Packet) : (taken s rest).response = s.response := rfl
@[simp] theorem taken_events (s : State) (rest : List Packet) : (taken s rest).events = s.events := rfl

@[simp] theorem receiveFirst_cfg (s : State) (p : Packet) : (receiveFirst s p).cfg = s.cfg := rfl
@[simp] theorem receiveFirst_mem (s : State) (p : Packet) : (receiveFirst s p).mem = s.mem := rfl
@[simp] theorem receiveFirst_unlock (s : State) (p : Packet) : (receiveFirst s p).unlock = s.unlock := rfl
@[simp] theorem receiveFirst_coreIpl (s : State) (p : Packet) : (receiveFirst s p).coreIpl = s.coreIpl := rfl
@[simp] theorem receiveFirst_halted (s : State) (p : Packet) : (receiveFirst s p).halted = s.halted := rfl
@[simp] theorem receiveFirst_arbCount (s : State) (p : Packet) : (receiveFirst s p).arbCount = s.arbCount := rfl
@[simp] theorem receiveFirst_draws (s : State) (p : Packet) : (receiveFirst s p).draws = s.draws := rfl
@[simp] theorem receiveFirst_inbox (s : State) (p : Packet) : (receiveFirst s p).inbox = p :: s.inbox := rfl
@[simp] theorem receiveFirst_response (s : State) (p : Packet) : (receiveFirst s p).response = s.response := rfl
@[simp] theorem receiveFirst_events (s : State) (p : Packet) : (receiveFirst s p).events = s.events := rfl

end Sys2Proof.Machine
end

