-- ==== Sys2Proof/Laws/Memory.lean ====
section
/-! SUPPORT. The Register File: read after write, and every operation over it keeps the canonical form. -/

namespace Sys2Proof.Machine

@[simp] theorem readMemory_nil (o : Nat) : readMemory [] o = emptyCell := rfl

theorem readMemory_cons (k : Nat) (v : Word) (m : Memory) (o : Nat) :
    readMemory ((k, v) :: m) o = if o = k then v else readMemory m o := rfl

/-- An offset below every listed one reads as an empty cell. -/
theorem readMemory_of_lt {m : Memory} {o : Nat} (h : ∀ p ∈ m, o < p.1) : readMemory m o = emptyCell := by
  induction m with
  | nil => rfl
  | cons p m ih =>
    obtain ⟨k, v⟩ := p
    have hk : o < k := h (k, v) (by simp)
    rw [readMemory_cons, if_neg (by omega)]
    exact ih fun q hq => h q (by simp [hq])

/-- In a canonical memory the tail's offsets lie above the head's. -/
theorem lt_of_memoryWf_cons {p : Nat × Word} {m : Memory} (h : memoryWf (p :: m)) : ∀ q ∈ m, p.1 < q.1 :=
  (List.pairwise_cons.mp h.1).1

theorem memoryWf_tail {p : Nat × Word} {m : Memory} (h : memoryWf (p :: m)) : memoryWf m :=
  ⟨(List.pairwise_cons.mp h.1).2, fun q hq => h.2 q (by simp [hq])⟩

theorem memoryWf_nil : memoryWf [] := by simp [memoryWf]

theorem memoryWf_cons {k : Nat} {v : Word} {m : Memory} (hm : memoryWf m) (hk : ∀ q ∈ m, k < q.1)
    (hv : v ≠ emptyCell) : memoryWf ((k, v) :: m) :=
  ⟨List.pairwise_cons.mpr ⟨hk, hm.1⟩, by
    intro p hp
    rcases List.mem_cons.mp hp with rfl | hp
    · exact hv
    · exact hm.2 p hp⟩

/-- Offsets a write can list: the old ones and the written one. -/
theorem mem_writeMemory {m : Memory} {o : Nat} {v : Word} {p : Nat × Word} (h : p ∈ writeMemory m o v) :
    p ∈ m ∨ p.1 = o := by
  induction m with
  | nil =>
    simp only [writeMemory] at h
    split at h <;> simp_all
  | cons q m ih =>
    obtain ⟨k, x⟩ := q
    simp only [writeMemory] at h
    split at h
    · split at h
      · exact Or.inl h
      · rcases List.mem_cons.mp h with rfl | h
        · exact Or.inr rfl
        · exact Or.inl h
    · split at h
      · split at h
        · exact Or.inl (by simp [h])
        · rcases List.mem_cons.mp h with rfl | h
          · exact Or.inr rfl
          · exact Or.inl (by simp [h])
      · rcases List.mem_cons.mp h with rfl | h
        · exact Or.inl (by simp)
        · rcases ih h with h | h
          · exact Or.inl (by simp [h])
          · exact Or.inr h

/-- A write keeps the canonical form. -/
theorem writeMemory_wf {m : Memory} (hm : memoryWf m) (o : Nat) (v : Word) : memoryWf (writeMemory m o v) := by
  induction m with
  | nil =>
    simp only [writeMemory]
    split
    · exact memoryWf_nil
    · exact memoryWf_cons memoryWf_nil (by simp) ‹_›
  | cons p m ih =>
    obtain ⟨k, x⟩ := p
    have hlt := lt_of_memoryWf_cons hm
    have htl := memoryWf_tail hm
    simp only [writeMemory]
    split
    · split
      · exact hm
      · refine memoryWf_cons hm ?_ ‹_›
        intro q hq
        rcases List.mem_cons.mp hq with rfl | hq
        · assumption
        · have := hlt q hq
          omega
    · split
      · split
        · exact htl
        · exact memoryWf_cons htl (fun q hq => by have := hlt q hq; simp only at this; omega) ‹_›
      · refine memoryWf_cons (ih htl) ?_ (hm.2 (k, x) (by simp))
        intro q hq
        rcases mem_writeMemory hq with hq | hq
        · exact hlt q hq
        · omega

/-- Read after write, over the canonical form. -/
theorem readMemory_writeMemory {m : Memory} (hm : memoryWf m) (o o' : Nat) (v : Word) :
    readMemory (writeMemory m o v) o' = if o' = o then v else readMemory m o' := by
  induction m with
  | nil =>
    simp only [writeMemory]
    split
    · simp_all
    · simp [readMemory_cons]
  | cons p m ih =>
    obtain ⟨k, x⟩ := p
    have hlt := lt_of_memoryWf_cons hm
    have ih := ih (memoryWf_tail hm)
    have hout : ∀ j, j ≤ k → readMemory m j = emptyCell := fun j hj =>
      readMemory_of_lt fun q hq => by have := hlt q hq; simp only at this; omega
    simp only [writeMemory]
    split
    · split
      · subst v
        by_cases h : o' = o
        · subst o'
          rw [if_pos rfl, readMemory_cons, if_neg (by omega), hout _ (by omega)]
        · rw [if_neg h]
      · rw [readMemory_cons]
    · split
      · subst k
        split
        · subst v
          by_cases h : o' = o
          · subst o'
            rw [if_pos rfl, hout _ (by omega)]
          · rw [if_neg h, readMemory_cons, if_neg h]
        · rw [readMemory_cons, readMemory_cons]
          split <;> rfl
      · rw [readMemory_cons, ih, readMemory_cons]
        by_cases h : o' = k
        · rw [if_pos h, if_pos h, if_neg (by omega)]
        · rw [if_neg h, if_neg h]

/-- The Register File after the first two steps of a reset is canonical. -/
theorem patternMemory_wf (c : Config) : memoryWf (patternMemory c) := by
  have h : ∀ (l : List (Word × Word)) (m : Memory), memoryWf m →
      memoryWf (l.foldl (fun m p => writeMemory m p.1.toNat p.2) m) := by
    intro l
    induction l with
    | nil => exact fun m hm => hm
    | cons p l ih => exact fun m hm => ih _ (writeMemory_wf hm _ _)
  exact h _ _ memoryWf_nil

theorem cell_setCell {s : State} (hm : memoryWf s.mem) (o o' v : Word) :
    cell (setCell s o v) o' = if o' = o then v else cell s o' := by
  simp only [cell, setCell_mem, readMemory_writeMemory hm]
  by_cases h : o' = o
  · simp [h]
  · rw [if_neg h, if_neg (fun h' => h (BitVec.eq_of_toNat_eq h'))]

theorem cell_congr {s t : State} (h : s.mem = t.mem) (o : Word) : cell s o = cell t o := by
  simp [cell, h]

end Sys2Proof.Machine
end

