-- ==== Sys2Proof/Laws/Ops.lean ====
section
/-! SUPPORT. What each shared operation can do, said once: later proofs cite these instead of unfolding it. -/

namespace Sys2Proof.Machine

/-- A declared hook appends its event, and nothing else. -/
theorem emitHook_eq (s : State) (h : Option HookId) (e : HookId → Event) :
    emitHook s h e = { s with events := s.events ++ hookEvents h e } := by
  cases h <;> simp [emitHook, hookEvents, emit]

/-- Signalling sets the latched level to the signalled one and appends at most one event (R133). -/
theorem signal_eq (s : State) (r : ArbResult) :
    signal s r = { s with coreIpl := signalled r, events := s.events ++ arbEvents s.coreIpl r } := by
  have hsig : (r.any = true ∧ r.lvl ≠ 0#3) ↔ signalled r ≠ 0#3 := by
    cases h : r.any <;> simp [signalled, h]
  by_cases h0 : signalled r = 0#3
  · rw [signal, if_neg (fun h => hsig.mp h h0)]
    by_cases hc : s.coreIpl = 0#3
    · simp [arbEvents, h0, hc]
      rw [← hc]
    · have hc' : ¬ (0#3 = s.coreIpl) := fun e => hc e.symm
      simp [arbEvents, emit, h0, hc, hc']
  · have ha := (hsig.mpr h0).1
    have hl : signalled r = r.lvl := by simp [signalled, ha]
    rw [signal, if_pos (hsig.mpr h0)]
    by_cases hc : r.lvl = s.coreIpl
    · simp [arbEvents, hl, hc]
    · have h1 : ¬ (r.lvl = 0#3) := hl ▸ h0
      simp [arbEvents, emit, hl, hc, h1]

/-- The number of events of one arbitration is 0 or 1 (R138). -/
theorem arbEvents_length (old : Level) (r : ArbResult) : (arbEvents old r).length ≤ 1 := by
  simp only [arbEvents]
  split
  · simp
  · split <;> simp

/-- A bit of the priority field of a source, as a bit of its IPC register (R24, R25). -/
theorem pfield_getLsbD (s : State) (i b : Nat) :
    (pfield s i).getLsbD b = (decide (b < 8) && (cell s (ipcOffset s.cfg (i / 4))).getLsbD (8 * (i % 4) + b)) := by
  simp [pfield]

/-- A bit of the level of a source, as a bit of its priority field (R25). -/
theorem level_getLsbD (s : State) (i b : Nat) :
    (level s i).getLsbD b = (decide (b < 3) && (pfield s i).getLsbD (s.cfg.iplLsb + b)) := by
  simp [level]

/-- A bit of the sub-priority of a source, as a bit of its priority field (R25). -/
theorem subprio_getLsbD (s : State) (i b : Nat) :
    (subprio s i).getLsbD b = (decide (b < 2) && (pfield s i).getLsbD (s.cfg.islLsb + b)) := by
  simp [subprio]

/-- `ARB()` writes STAT, the latched level, the count and at most one event; nothing else (R134). -/
theorem arbitrate_eq (s : State) :
    arbitrate s =
      { s with
        mem := writeMemory s.mem s.cfg.statOff.toNat (statWord s.cfg (scan s))
        arbCount := s.arbCount + 1
        coreIpl := signalled (scan s)
        events := s.events ++ arbEvents s.coreIpl (scan s) } := by
  simp [arbitrate, signal_eq, publish, countArb, setCell]

/-- The scan depends on the configuration and the cells alone. -/
theorem scan_congr {s t : State} (hc : s.cfg = t.cfg) (hm : s.mem = t.mem) : scan s = scan t := by
  have hcell : ∀ o, cell s o = cell t o := cell_congr hm
  have harm : armed s = armed t := by
    funext i
    simp [armed, flag, enable, hcell, hc]
  have hlev : level s = level t := by
    funext i
    simp [level, pfield, hcell, hc]
  have hsrc : scanSource s = scanSource t := by
    funext r i
    simp only [scanSource, harm, hlev, hc]
  simp [scan, hsrc, hc]

/-- The scan depends on the flag, enable and level of the sources below N alone (R131, R139). -/
theorem scan_congr_sources {s t : State} (hc : s.cfg = t.cfg)
    (h : ∀ i, i < s.cfg.numSources → armed s i = armed t i ∧ (armed s i = true → level s i = level t i)) :
    scan s = scan t := by
  have key : ∀ (l : List Nat) (r : ArbResult), (∀ i ∈ l, i < s.cfg.numSources) →
      l.foldl (scanSource s) r = l.foldl (scanSource t) r := by
    intro l
    induction l with
    | nil => exact fun _ _ => rfl
    | cons i l ih =>
      intro r hl
      have hi := h i (hl i (by simp))
      have hstep : scanSource s r i = scanSource t r i := by
        by_cases ha : armed s i = true
        · simp [scanSource, ← hi.1, ha, hi.2 ha, hc]
        · simp [scanSource, ← hi.1, ha]
      rw [List.foldl_cons, List.foldl_cons, hstep]
      exact ih _ fun j hj => hl j (by simp [hj])
  simp only [scan, hc]
  rw [← hc]
  exact key _ _ fun i hi => List.mem_range.mp hi

/-- `FullReset(soft)` (R221). -/
theorem fullReset_soft_eq (s : State) :
    fullReset .soft s =
      { s with
        mem := writeMemory (patternMemory s.cfg) s.cfg.statOff.toNat (statWord s.cfg (scan (clearForReset s)))
        unlock := .locked
        coreIpl := signalled (scan (clearForReset s))
        arbCount := s.arbCount + 1
        events := s.events ++ [.periphReset, .requestCpuReset] ++ arbEvents 0#3 (scan (clearForReset s)) } := by
  have h : scan (emit (emit (clearForReset s) .periphReset) .requestCpuReset) = scan (clearForReset s) :=
    scan_congr rfl rfl
  simp [fullReset, arbitrate_eq, h]

/-- `FullReset(por)` (R221); the count is free (R32). -/
theorem fullReset_por_eq (s : State) :
    fullReset .por s =
      { s with
        mem := writeMemory (patternMemory s.cfg) s.cfg.statOff.toNat (statWord s.cfg (scan (clearForReset s)))
        unlock := .locked
        coreIpl := signalled (scan (clearForReset s))
        arbCount := Config.freeArbCount s.draws
        draws := s.draws + 1
        events := s.events ++ [.periphReset] ++ arbEvents 0#3 (scan (clearForReset s)) } := by
  have h : scan (emit (clearForReset s) .periphReset) = scan (clearForReset s) := scan_congr rfl rfl
  simp [fullReset, arbitrate_eq, h]
  simp [clearForReset, freeCount]

/-- While halted nothing but POR has a step (R186). -/
theorem whenRunning_halted {s : State} (h : s.halted = true) (k : State → Host.Outcome State Fault Refusal) :
    whenRunning s k = .fault .halted := by
  simp [whenRunning, h]

/-- While running a transaction starts with empty outputs. -/
theorem whenRunning_running {s : State} (h : s.halted = false) (k : State → Host.Outcome State Fault Refusal) :
    whenRunning s k = k (openTransaction s) := by
  simp [whenRunning, h]

/-- A transaction that answers a next state started running. -/
theorem whenRunning_next {s t : State} {k : State → Host.Outcome State Fault Refusal}
    (h : whenRunning s k = .next t) : s.halted = false ∧ k (openTransaction s) = .next t := by
  cases hh : s.halted
  · exact ⟨rfl, by rwa [whenRunning_running hh] at h⟩
  · rw [whenRunning_halted hh] at h
    cases h

/-- What a bus read can do when it answers a next state: the fatal error, or the read of the register found. -/
theorem busRead_next {w : Width} {a : Word} {s t : State} (h : busRead w a s = .next t) :
    s.halted = false ∧ contained w (laneOf s.cfg a) = true ∧
    ((busLookup s.cfg a = none ∧ t = raiseFatal (openTransaction s) a .read) ∨
     ∃ d op, busLookup s.cfg a = some (d, op) ∧
       t = readFound w (laneOf s.cfg a) a d op (openTransaction s)) := by
  obtain ⟨hr, h⟩ := whenRunning_next h
  refine ⟨hr, ?_⟩
  rw [openTransaction_cfg] at h
  cases hc : contained w (laneOf s.cfg a)
  · simp [hc] at h
  · refine ⟨rfl, ?_⟩
    rcases hl : busLookup s.cfg a with _ | ⟨d, op⟩
    · exact Or.inl ⟨rfl, by simpa [hc, hl] using h.symm⟩
    · exact Or.inr ⟨d, op, rfl, by simpa [hc, hl] using h.symm⟩

/-- What a bus write can do when it answers a next state: the fatal error, or the write to the register found. -/
theorem busWrite_next {w : Width} {a v : Word} {s t : State} (h : busWrite w a v s = .next t) :
    s.halted = false ∧ contained w (laneOf s.cfg a) = true ∧
    ((busLookup s.cfg a = none ∧ t = raiseFatal (openTransaction s) a .write) ∨
     ∃ d op, busLookup s.cfg a = some (d, op) ∧
       t = writeFound w (laneOf s.cfg a) a d op v (openTransaction s)) := by
  obtain ⟨hr, h⟩ := whenRunning_next h
  refine ⟨hr, ?_⟩
  rw [openTransaction_cfg] at h
  cases hc : contained w (laneOf s.cfg a)
  · simp [hc] at h
  · refine ⟨rfl, ?_⟩
    rcases hl : busLookup s.cfg a with _ | ⟨d, op⟩
    · exact Or.inl ⟨rfl, by simpa [hc, hl] using h.symm⟩
    · exact Or.inr ⟨d, op, rfl, by simpa [hc, hl] using h.symm⟩

/-- A running, contained bus read of a mapped word runs the read of the register found. -/
theorem busRead_found {w : Width} {a : Word} {s : State} {d : Descriptor} {op : OpCode} (hr : s.halted = false)
    (hc : contained w (laneOf s.cfg a) = true) (hl : busLookup s.cfg a = some (d, op)) :
    busRead w a s = .next (readFound w (laneOf s.cfg a) a d op (openTransaction s)) := by
  simp [busRead, whenRunning_running hr, hc, hl]

/-- A running, contained bus write to a mapped word runs the write to the register found. -/
theorem busWrite_found {w : Width} {a v : Word} {s : State} {d : Descriptor} {op : OpCode} (hr : s.halted = false)
    (hc : contained w (laneOf s.cfg a) = true) (hl : busLookup s.cfg a = some (d, op)) :
    busWrite w a v s = .next (writeFound w (laneOf s.cfg a) a d op v (openTransaction s)) := by
  simp [busWrite, whenRunning_running hr, hc, hl]

end Sys2Proof.Machine
end

