-- ==== Sys2Proof/Laws/PerInstr.lean ====
section
/-! SUPPORT. Statements for all operations, one lemma per constructor of Instr. -/

namespace Sys2Proof.Laws

/-- The header byte of the packet of an operation is the operation's row number and port, whatever its operands. -/
def Header.Statement (i : Instr) : Prop := packetHeader (encode i) = headerOf i

theorem Header.rdB (a : Word) : Header.Statement (.rdB a) := packetHeader_pack _ _ _ _
theorem Header.rdH (a : Word) : Header.Statement (.rdH a) := packetHeader_pack _ _ _ _
theorem Header.rdW (a : Word) : Header.Statement (.rdW a) := packetHeader_pack _ _ _ _
theorem Header.rdcB (a : Word) : Header.Statement (.rdcB a) := packetHeader_pack _ _ _ _
theorem Header.rdsB (a : Word) : Header.Statement (.rdsB a) := packetHeader_pack _ _ _ _
theorem Header.rdiB (a : Word) : Header.Statement (.rdiB a) := packetHeader_pack _ _ _ _
theorem Header.rdcH (a : Word) : Header.Statement (.rdcH a) := packetHeader_pack _ _ _ _
theorem Header.rdsH (a : Word) : Header.Statement (.rdsH a) := packetHeader_pack _ _ _ _
theorem Header.rdiH (a : Word) : Header.Statement (.rdiH a) := packetHeader_pack _ _ _ _
theorem Header.rdcW (a : Word) : Header.Statement (.rdcW a) := packetHeader_pack _ _ _ _
theorem Header.rdsW (a : Word) : Header.Statement (.rdsW a) := packetHeader_pack _ _ _ _
theorem Header.rdiW (a : Word) : Header.Statement (.rdiW a) := packetHeader_pack _ _ _ _
theorem Header.wrB (a v : Word) : Header.Statement (.wrB a v) := packetHeader_pack _ _ _ _
theorem Header.wrH (a v : Word) : Header.Statement (.wrH a v) := packetHeader_pack _ _ _ _
theorem Header.wrW (a v : Word) : Header.Statement (.wrW a v) := packetHeader_pack _ _ _ _
theorem Header.wrcB (a v : Word) : Header.Statement (.wrcB a v) := packetHeader_pack _ _ _ _
theorem Header.wrcH (a v : Word) : Header.Statement (.wrcH a v) := packetHeader_pack _ _ _ _
theorem Header.wrcW (a v : Word) : Header.Statement (.wrcW a v) := packetHeader_pack _ _ _ _
theorem Header.wrsB (a v : Word) : Header.Statement (.wrsB a v) := packetHeader_pack _ _ _ _
theorem Header.wrsH (a v : Word) : Header.Statement (.wrsH a v) := packetHeader_pack _ _ _ _
theorem Header.wrsW (a v : Word) : Header.Statement (.wrsW a v) := packetHeader_pack _ _ _ _
theorem Header.wriB (a v : Word) : Header.Statement (.wriB a v) := packetHeader_pack _ _ _ _
theorem Header.wriH (a v : Word) : Header.Statement (.wriH a v) := packetHeader_pack _ _ _ _
theorem Header.wriW (a v : Word) : Header.Statement (.wriW a v) := packetHeader_pack _ _ _ _
theorem Header.raise (a : Word) : Header.Statement (.raise a) := packetHeader_pack _ _ _ _
theorem Header.clear (a : Word) : Header.Statement (.clear a) := packetHeader_pack _ _ _ _
theorem Header.push (off v m : Word) : Header.Statement (.push off v m) := packetHeader_pack _ _ _ _
theorem Header.por : Header.Statement .por := packetHeader_pack _ _ _ _
theorem Header.arb : Header.Statement .arb := packetHeader_pack _ _ _ _
theorem Header.fullreset (k : ResetKind) : Header.Statement (.fullreset k) := packetHeader_pack _ _ _ _

end Sys2Proof.Laws
end

