-- ==== Sys2Proof/Laws/Table.lean ====
section
/-! SUPPORT. What a well-formed configuration gives: the parts of `wellFormedConfig`, that a base offset names one
register, and where the registers the block interprets stand. -/

namespace Sys2Proof.Machine

variable {c : Config}

theorem wf_parts (h : wellFormedConfig c = true) :
    parametersOk c = true ∧ (∀ d ∈ c.descTable, descriptorOk c d = true) ∧
      c.descTable.Pairwise (fun d e => disjointFootprints d e = true) ∧ rolesPresent c = true ∧
      resetPatternOk c = true := by
  simp only [wellFormedConfig, Bool.and_eq_true, List.all_eq_true, decide_eq_true_eq] at h
  exact ⟨h.1.1.1.1, h.1.1.1.2, h.1.1.2, h.1.2, h.2⟩

/-- The two fields of a priority byte lie inside it and apart from each other (R24, G2; log entry 13). -/
theorem wf_priority_fields (h : wellFormedConfig c = true) :
    c.iplLsb ≤ 5 ∧ c.islLsb ≤ 6 ∧ (c.iplLsb + 3 ≤ c.islLsb ∨ c.islLsb + 2 ≤ c.iplLsb) := by
  have := (wf_parts h).1
  simp only [parametersOk, Bool.and_eq_true, decide_eq_true_eq, Bool.or_eq_true] at this
  tauto

/-- R16 items 1 and 2, masks, hooks and role constraints of a listed register. -/
theorem wf_descriptor (h : wellFormedConfig c = true) {d : Descriptor} (hd : d ∈ c.descTable) :
    baseOk c d = true ∧ masksOk d = true ∧ hooksOk c d = true ∧ roleOk c d = true := by
  have := (wf_parts h).2.1 d hd
  simp only [descriptorOk, Bool.and_eq_true] at this
  exact ⟨this.1.1.1, this.1.1.2, this.1.2, this.2⟩

theorem base_mem_footprint (d : Descriptor) : d.base ∈ footprint d := by
  simp only [footprint]
  split <;> simp

theorem disjointFootprints_iff (d e : Descriptor) :
    disjointFootprints d e = true ↔ ∀ o ∈ footprint d, o ∉ footprint e := by
  simp [disjointFootprints]

/-- Two listed registers whose footprints meet are one register (R16 item 3). -/
theorem eq_of_footprints_meet (h : wellFormedConfig c = true) {d e : Descriptor} (hd : d ∈ c.descTable)
    (he : e ∈ c.descTable) {o : Word} (ho : o ∈ footprint d) (ho' : o ∈ footprint e) : d = e := by
  by_contra hne
  have hsymm : ∀ x y : Descriptor, disjointFootprints x y = true → disjointFootprints y x = true := by
    intro x y hxy
    rw [disjointFootprints_iff] at hxy ⊢
    exact fun z hz hz' => hxy z hz' hz
  have : Std.Symm (fun d e : Descriptor => disjointFootprints d e = true) := ⟨hsymm⟩
  have hdis : disjointFootprints d e = true :=
    List.Pairwise.forall (R := fun d e => disjointFootprints d e = true) (wf_parts h).2.2.1 hd he hne
  exact (disjointFootprints_iff d e).mp hdis o ho ho'

/-- A base offset names one register (R16 item 3). -/
theorem eq_of_base_eq (h : wellFormedConfig c = true) {d e : Descriptor} (hd : d ∈ c.descTable)
    (he : e ∈ c.descTable) (hb : d.base = e.base) : d = e :=
  eq_of_footprints_meet h hd he (base_mem_footprint d) (hb ▸ base_mem_footprint e)

theorem exists_role {r : Role} (h : hasRole c r = true) : ∃ d ∈ c.descTable, d.role = r := by
  simpa [hasRole] using h

/-- STAT is listed at STAT_OFF (R17). -/
theorem exists_stat (h : wellFormedConfig c = true) :
    ∃ d ∈ c.descTable, d.role = .stat ∧ d.base = c.statOff := by
  have hr := (wf_parts h).2.2.2.1
  simp only [rolesPresent, Bool.and_eq_true] at hr
  obtain ⟨d, hd, hrole⟩ := exists_role hr.1.1.2
  have hok := (wf_descriptor h hd).2.2.2
  simp only [roleOk, hrole, Bool.and_eq_true, beq_iff_eq] at hok
  exact ⟨d, hd, hrole, hok.1.1.1⟩

/-- KEY is listed at KEY_OFF (R17). -/
theorem exists_key (h : wellFormedConfig c = true) :
    ∃ d ∈ c.descTable, d.role = .key ∧ d.base = c.keyOff := by
  have hr := (wf_parts h).2.2.2.1
  simp only [rolesPresent, Bool.and_eq_true] at hr
  obtain ⟨d, hd, hrole⟩ := exists_role hr.1.2
  have hok := (wf_descriptor h hd).2.2.2
  simp only [roleOk, hrole, Bool.and_eq_true, beq_iff_eq] at hok
  exact ⟨d, hd, hrole, hok.1.1.1.1.1⟩

/-- RSWRST is listed at RSWRST_OFF (R17). -/
theorem exists_rswrst (h : wellFormedConfig c = true) :
    ∃ d ∈ c.descTable, d.role = .rswrst ∧ d.base = c.rswrstOff := by
  have hr := (wf_parts h).2.2.2.1
  simp only [rolesPresent, Bool.and_eq_true] at hr
  obtain ⟨d, hd, hrole⟩ := exists_role hr.2
  have hok := (wf_descriptor h hd).2.2.2
  simp only [roleOk, hrole, Bool.and_eq_true, beq_iff_eq] at hok
  exact ⟨d, hd, hrole, hok.1.1.1⟩

theorem bank_lt {i : Nat} (hi : i < c.numSources) : i / 32 < numBanks c := by
  simp only [numBanks]
  omega

theorem ipc_lt {i : Nat} (hi : i < c.numSources) : i / 4 < numIpcs c := by
  simp only [numIpcs]
  omega

/-- The flag bank of a source is listed at its offset (R17, R22). -/
theorem exists_ifs (h : wellFormedConfig c = true) {i : Nat} (hi : i < c.numSources) :
    ∃ d ∈ c.descTable, d.role = .ifs (i / 32) ∧ d.base = ifsOffset c (i / 32) := by
  have hr := (wf_parts h).2.2.2.1
  simp only [rolesPresent, Bool.and_eq_true, List.all_eq_true, List.mem_range] at hr
  obtain ⟨d, hd, hrole⟩ := exists_role (hr.1.1.1.1 _ (bank_lt hi)).1
  have hok := (wf_descriptor h hd).2.2.2
  simp only [roleOk, hrole, Bool.and_eq_true, beq_iff_eq] at hok
  exact ⟨d, hd, hrole, hok.1.2⟩

/-- The enable bank of a source is listed at its offset (R17, R23). -/
theorem exists_iec (h : wellFormedConfig c = true) {i : Nat} (hi : i < c.numSources) :
    ∃ d ∈ c.descTable, d.role = .iec (i / 32) ∧ d.base = iecOffset c (i / 32) := by
  have hr := (wf_parts h).2.2.2.1
  simp only [rolesPresent, Bool.and_eq_true, List.all_eq_true, List.mem_range] at hr
  obtain ⟨d, hd, hrole⟩ := exists_role (hr.1.1.1.1 _ (bank_lt hi)).2
  have hok := (wf_descriptor h hd).2.2.2
  simp only [roleOk, hrole, Bool.and_eq_true, beq_iff_eq] at hok
  exact ⟨d, hd, hrole, hok.1.2⟩

/-- The priority register of a source is listed at its offset (R17, R24). -/
theorem exists_ipc (h : wellFormedConfig c = true) {i : Nat} (hi : i < c.numSources) :
    ∃ d ∈ c.descTable, d.role = .ipc (i / 4) ∧ d.base = ipcOffset c (i / 4) := by
  have hr := (wf_parts h).2.2.2.1
  simp only [rolesPresent, Bool.and_eq_true, List.all_eq_true, List.mem_range] at hr
  obtain ⟨d, hd, hrole⟩ := exists_role (hr.1.1.1.2 _ (ipc_lt hi))
  have hok := (wf_descriptor h hd).2.2.2
  simp only [roleOk, hrole, Bool.and_eq_true, beq_iff_eq] at hok
  exact ⟨d, hd, hrole, hok.1.2⟩

/-- Writing a cell the scan does not read leaves the scan as it was: a cell whose register is no interrupt register. -/
theorem scan_eq_of_cells {s t : State} (h : wellFormedConfig s.cfg = true) (hc : t.cfg = s.cfg)
    (hcells : ∀ d ∈ s.cfg.descTable, isInterruptRole d.role = true → cell t d.base = cell s d.base) :
    ∀ i, i < s.cfg.numSources → flag t i = flag s i ∧ enable t i = enable s i ∧ level t i = level s i := by
  intro i hi
  obtain ⟨d, hd, hr, hb⟩ := exists_ifs h hi
  obtain ⟨e, he, hr', hb'⟩ := exists_iec h hi
  obtain ⟨f, hf, hr'', hb''⟩ := exists_ipc h hi
  have h1 := hcells d hd (by simp [hr, isInterruptRole])
  have h2 := hcells e he (by simp [hr', isInterruptRole])
  have h3 := hcells f hf (by simp [hr'', isInterruptRole])
  rw [hb] at h1
  rw [hb'] at h2
  rw [hb''] at h3
  simp [flag, enable, level, pfield, hc, h1, h2, h3]

end Sys2Proof.Machine
end

