-- ==== Sys2Proof/Laws/Transactions.lean ====
section
/-! SUPPORT. What each transaction can do, said once: which pipeline an operation runs, what the read and write stages
leave, what RAISE, CLEAR, PUSH, ARB and FULLRESET leave when they answer a next state, and which cells an arbitration and
a reset change. -/

namespace Sys2Proof.Machine

/-- A read operation is the read path at its width and address. -/
theorem exec_of_readForm {i : Instr} {w : Width} {op : OpCode} {a : Word} (h : readForm i = some (w, op, a))
    (s : State) : exec i s = busRead w a s := by
  cases i <;> simp [readForm] at h <;> obtain ⟨rfl, rfl, rfl⟩ := h <;> rfl

/-- A write operation is the write path at its width, address and value. -/
theorem exec_of_writeForm {i : Instr} {w : Width} {op : OpCode} {a v : Word} (h : writeForm i = some (w, op, a, v))
    (s : State) : exec i s = busWrite w a v s := by
  cases i <;> simp [writeForm] at h <;> obtain ⟨rfl, rfl, rfl, rfl⟩ := h <;> rfl

/-- An operation is a read, a write, or one of the six of the other ports. -/
theorem instr_forms (i : Instr) :
    (∃ w op a, readForm i = some (w, op, a)) ∨ (∃ w op a v, writeForm i = some (w, op, a, v)) ∨
    (∃ id, i = .raise id) ∨ (∃ id, i = .clear id) ∨ (∃ o v m, i = .push o v m) ∨ i = .por ∨ i = .arb ∨
    (∃ k, i = .fullreset k) := by
  cases i <;> simp [readForm, writeForm]

/-- While halted nothing but POR has a step (R186). -/
theorem exec_halted {i : Instr} {s : State} (h : s.halted = true) (hi : i ≠ .por) : exec i s = .fault .halted := by
  rcases instr_forms i with ⟨w, op, a, hf⟩ | ⟨w, op, a, v, hf⟩ | ⟨id, rfl⟩ | ⟨id, rfl⟩ | ⟨o, v, m, rfl⟩ | rfl | rfl |
    ⟨k, rfl⟩
  · rw [exec_of_readForm hf]
    exact whenRunning_halted h _
  · rw [exec_of_writeForm hf]
    exact whenRunning_halted h _
  · simp only [exec, execRaise, whenRunning_halted h]
  · simp only [exec, execClear, whenRunning_halted h]
  · simp only [exec, execPush, whenRunning_halted h]
  · exact absurd rfl hi
  · simp only [exec, execArb, whenRunning_halted h]
  · simp only [exec, execFullreset, whenRunning_halted h]

/-- What RAISE can do when it answers a next state (R135). -/
theorem raise_next {id : Word} {s t : State} (h : exec (.raise id) s = .next t) :
    s.halted = false ∧ id.toNat < s.cfg.numSources ∧
    ((flag s id.toNat = true ∧ t = openTransaction s) ∨
     (flag s id.toNat = false ∧ t = arbitrate (setFlag (openTransaction s) id.toNat))) := by
  obtain ⟨hr, h⟩ := whenRunning_next (show execRaise id s = .next t from h)
  have hf : flag (openTransaction s) id.toNat = flag s id.toNat := rfl
  simp only [openTransaction_cfg, hf] at h
  split at h
  · refine ⟨hr, ‹_›, ?_⟩
    split at h <;> simp_all
  · cases h

/-- What CLEAR can do when it answers a next state (R136). -/
theorem clear_next {id : Word} {s t : State} (h : exec (.clear id) s = .next t) :
    s.halted = false ∧ id.toNat < s.cfg.numSources ∧
    ((flag s id.toNat = false ∧ t = openTransaction s) ∨
     (flag s id.toNat = true ∧ t = arbitrate (clearFlag (openTransaction s) id.toNat))) := by
  obtain ⟨hr, h⟩ := whenRunning_next (show execClear id s = .next t from h)
  have hf : flag (openTransaction s) id.toNat = flag s id.toNat := rfl
  simp only [openTransaction_cfg, hf] at h
  split at h
  · refine ⟨hr, ‹_›, ?_⟩
    split at h <;> simp_all
  · cases h

/-- What PUSH can do when it answers a next state (R171). -/
theorem push_next {o v m : Word} {s t : State} (h : exec (.push o v m) s = .next t) :
    s.halted = false ∧ ∃ d, lookup s.cfg o = some (d, .assign) ∧ pushable d.role = true ∧
      t = setCell (openTransaction s) o (pushWord (cell s o) v m) := by
  obtain ⟨hr, h⟩ := whenRunning_next (show execPush o v m s = .next t from h)
  have hf : cell (openTransaction s) o = cell s o := rfl
  simp only [openTransaction_cfg, hf] at h
  rcases hl : lookup s.cfg o with _ | ⟨d, _ | _ | _ | _⟩ <;> rw [hl] at h <;> simp at h
  by_cases hp : pushable d.role = true
  · simp [hp] at h
    exact ⟨hr, d, rfl, hp, h.symm⟩
  · simp [hp] at h

/-- What ARB can do when it answers a next state (R134). -/
theorem arb_next {s t : State} (h : exec .arb s = .next t) :
    s.halted = false ∧ t = arbitrate (openTransaction s) := by
  obtain ⟨hr, h⟩ := whenRunning_next (show execArb s = .next t from h)
  cases h
  exact ⟨hr, rfl⟩

/-- What FULLRESET can do when it answers a next state (R221). -/
theorem fullreset_next {k : ResetKind} {s t : State} (h : exec (.fullreset k) s = .next t) :
    s.halted = false ∧ t = fullReset k (openTransaction s) := by
  obtain ⟨hr, h⟩ := whenRunning_next (show execFullreset k s = .next t from h)
  cases h
  exact ⟨hr, rfl⟩

/-- What a read of a base address the policy permits leaves (R81, R82, R84). -/
theorem permittedRead_eq (w : Width) (l : Lane) (d : Descriptor) (s : State) :
    permittedRead w l d s =
      { applyReadSide s d with
        response := .okRead (sel (forced d (cell s d.base)) w l)
        events := s.events ++
          hookEvents d.rhook (fun h => .readHook h d.base l w (sel (forced d (cell s d.base)) w l)) } := by
  rcases hd : d.rside with _ | ⟨t, m⟩ <;> simp [permittedRead, emitHook_eq, respond, applyReadSide, hd]

/-- A write the policy permits runs the write stages on the committed word (R100). -/
theorem writeFound_eq {d : Descriptor} (hp : d.policy ≠ .ro) (w : Width) (l : Lane) (a : Word) (op : OpCode) (v : Word)
    (s : State) : writeFound w l a d op v s = permittedWrite w l d op v s := by
  cases h : d.policy <;> simp_all [writeFound]

/-- The test for the soft reset is the statement's `resetWrite` (R154). -/
theorem triggersReset_iff (s : State) (d : Descriptor) (new : Word) :
    triggersReset s d new = true ↔ resetWrite s d new := by
  simp [triggersReset, resetWrite, and_assoc]

/-- Stage 4f of a write to a register that is no interrupt register, outside the reset case (R106). -/
theorem finishWrite_quiet {s : State} {d : Descriptor} {new : Word} (hq : isInterruptRole d.role = false)
    (hn : ¬ resetWrite s d new) :
    finishWrite s d new =
      { s with
        mem := writeMemory s.mem d.base.toNat new
        unlock := nextUnlock s.cfg s.unlock d new
        events := s.events ++ hookEvents d.whook (fun h => .writeHook h d.base (cell s d.base) new) } := by
  have h1 : triggersReset s d new = false := by
    rw [← triggersReset_iff] at hn
    simpa using hn
  simp [finishWrite, h1, emitHook_eq, commitWrite, arbitrateIfInterrupt, hq, setCell]

/-- Stage 4f of a write to an interrupt register, which has no hook (R17, R106): commit, then arbitrate. -/
theorem finishWrite_interrupt {s : State} {d : Descriptor} {new : Word} (hq : isInterruptRole d.role = true)
    (hh : d.whook = none) :
    finishWrite s d new =
      arbitrate { setCell s d.base new with unlock := nextUnlock s.cfg s.unlock d new } := by
  have h1 : triggersReset s d new = false := by
    cases h : d.role <;> simp_all [isInterruptRole, triggersReset]
  simp [finishWrite, h1, commitWrite, arbitrateIfInterrupt, hq, emitHook, hh]

/-- Stage 4f of a write that triggers the soft reset (R106, R154): the hook, then the reset; no commit. -/
theorem finishWrite_reset {s : State} {d : Descriptor} {new : Word} (hn : resetWrite s d new) :
    finishWrite s d new =
      fullReset .soft { s with
        events := s.events ++ hookEvents d.whook (fun h => .writeHook h d.base (cell s d.base) new) } := by
  simp [finishWrite, (triggersReset_iff s d new).mpr hn, emitHook_eq]

/-- `sel` is the lanes of a word by bit position, for a contained access (R67). -/
theorem sel_eq_lanes (x : Word) (w : Width) (l : Lane) (h : l.toNat + widthBytes w ≤ 4) :
    sel x w l = lanes x w l.toNat := by
  cases w with
  | byte => rfl
  | half => rfl
  | word =>
    have : l.toNat = 0 := by simp only [widthBytes] at h; omega
    simp [sel, lanes, this]

/-- `opnd` is the value's low bytes in their lanes, for a contained access (R67). -/
theorem opnd_eq_laneOperand (v : Word) (w : Width) (l : Lane) (h : l.toNat + widthBytes w ≤ 4) :
    opnd v w l = laneOperand v w l.toNat := by
  cases w with
  | byte => simp [opnd, laneOperand, widthMask]
  | half => simp [opnd, laneOperand, widthMask]
  | word =>
    have : l.toNat = 0 := by simp only [widthBytes] at h; omega
    simpa [opnd, laneOperand, widthMask, this] using BitVec.and_allOnes (x := v)

/-- `lmask` by lane, for a contained access (R67). -/
theorem laneMask_eq_lanesMask (w : Width) (l : Lane) (h : l.toNat + widthBytes w ≤ 4) :
    laneMask w l = lanesMask w l.toNat := by
  cases w with
  | byte => simp [laneMask, lanesMask, widthMask]
  | half => simp [laneMask, lanesMask, widthMask]
  | word =>
    have : l.toNat = 0 := by simp only [widthBytes] at h; omega
    simp [laneMask, lanesMask, widthMask, this]

/-- The word a contained write commits, by lanes (R101 to R105). -/
theorem committedWord_eq (s : State) (w : Width) (l : Lane) (d : Descriptor) (op : OpCode) (v : Word)
    (h : l.toNat + widthBytes w ≤ 4) :
    committedWord s w l d op v =
      let old := cell s d.base
      let m := laneOperand v w l.toNat
      let eff := if s.unlock = .stage2 then d.wmask else d.wmask &&& ~~~ d.protmask
      let cand :=
        match op with
        | .assign => (old &&& ~~~ lanesMask w l.toNat) ||| m
        | .clr => old &&& ~~~ m
        | .set => old ||| m
        | .inv => old ^^^ m
      (cand &&& eff) ||| (old &&& ~~~ eff) := by
  have he : effectiveMask s.unlock d = if s.unlock = .stage2 then d.wmask else d.wmask &&& ~~~ d.protmask := by
    cases hu : s.unlock <;> simp [effectiveMask]
  cases op <;>
    simp only [committedWord, applyMask, decodeWriteOp, operandWord, he, opnd_eq_laneOperand v w l h,
      laneMask_eq_lanesMask w l h]

/-- A base offset is word aligned and inside the window (R16 item 1). -/
theorem base_aligned {c : Config} (hc : wellFormedConfig c = true) {d : Descriptor} (hd : d ∈ c.descTable) :
    d.base.toNat % 4 = 0 ∧ d.base.toNat < c.windowSize := by
  have := (wf_descriptor hc hd).1
  simp [baseOk] at this
  exact this.1

/-- Only STAT stands at STAT_OFF (R16 item 3, R17). -/
theorem base_ne_statOff {c : Config} (hc : wellFormedConfig c = true) {d : Descriptor} (hd : d ∈ c.descTable)
    (hr : d.role ≠ .stat) : d.base ≠ c.statOff := by
  obtain ⟨e, he, hs, hb⟩ := exists_stat hc
  intro h
  have := eq_of_base_eq hc hd he (h.trans hb.symm)
  exact hr (this ▸ hs)

/-- R17's row for IFS, IEC and IPC registers. -/
theorem interrupt_register {c : Config} (hc : wellFormedConfig c = true) {d : Descriptor} (hd : d ∈ c.descTable)
    (hq : isInterruptRole d.role = true) :
    d.policy = .rw ∧ d.protmask = 0#32 ∧ d.whook = none ∧ d.rforceMask = 0#32 ∧ d.rside = none := by
  have := (wf_descriptor hc hd).2.2.2
  cases h : d.role <;> simp_all [isInterruptRole, roleOk, interruptRegOk, noReadEffects]

/-- An arbitration changes the cell of STAT and no other (R132). -/
theorem arbitrate_cell {s : State} (hm : memoryWf s.mem) (o : Word) :
    cell (arbitrate s) o = if o = s.cfg.statOff then statWord s.cfg (scan s) else cell s o := by
  rw [← cell_setCell hm]
  apply cell_congr
  rw [arbitrate_eq]
  rfl

/-- An arbitration does not change what an arbitration finds (R134). -/
theorem scan_arbitrate {s : State} (hc : wellFormedConfig s.cfg = true) (hm : memoryWf s.mem) :
    scan (arbitrate s) = scan s := by
  have hcfg : (arbitrate s).cfg = s.cfg := by rw [arbitrate_eq]
  have hcells : ∀ d ∈ s.cfg.descTable, isInterruptRole d.role = true → cell (arbitrate s) d.base = cell s d.base := by
    intro d hd hq
    rw [arbitrate_cell hm, if_neg (base_ne_statOff hc hd (by intro h; simp [h, isInterruptRole] at hq))]
  refine scan_congr_sources hcfg fun i hi => ?_
  have h := scan_eq_of_cells hc hcfg hcells i (hcfg ▸ hi)
  simp [armed, h]

/-- The Register File after the first two steps of a reset reads as the power-on table (R32, R221). -/
theorem patternMemory_read {c : Config} (hc : wellFormedConfig c = true) (o : Word) :
    readMemory (patternMemory c) o.toNat = powerOnValue c o := by
  have hp := (wf_parts hc).2.2.2.2
  simp only [resetPatternOk, Bool.and_eq_true, decide_eq_true_eq] at hp
  have key : ∀ (l : List (Word × Word)) (m : Memory), memoryWf m →
      (l.map (fun p => p.1)).Pairwise (fun a b => a ≠ b) →
      readMemory (l.foldl (fun m p => writeMemory m p.1.toNat p.2) m) o.toNat =
        match l.find? (fun p => p.1 == o) with
        | some p => p.2
        | none => readMemory m o.toNat := by
    intro l
    induction l with
    | nil => intros; rfl
    | cons p l ih =>
      intro m hm hpw
      rw [List.map_cons, List.pairwise_cons] at hpw
      rw [List.foldl_cons, ih _ (writeMemory_wf hm _ _) hpw.2, List.find?_cons, readMemory_writeMemory hm]
      by_cases h : p.1 = o
      · have hnone : l.find? (fun p => p.1 == o) = none := by
          rw [List.find?_eq_none]
          intro q hq hqo
          exact hpw.1 q.1 (List.mem_map.mpr ⟨q, hq, rfl⟩) (h.trans (beq_iff_eq.mp hqo).symm)
        simp [h, hnone]
      · have h' : ¬ (o.toNat = p.1.toNat) := fun e => h (BitVec.eq_of_toNat_eq e.symm)
        have h'' : (p.1 == o) = false := by simpa using h
        simp only [h'', if_neg h']
  exact key _ _ memoryWf_nil hp.2

end Sys2Proof.Machine
end

