-- ==== Sys2Proof/Tests/Slice0.lean ====
section
/-! SUPPORT. Tests: decoding of packets written out from spec/30_encoding.md R69 and the packet layout of log entry 3,
ill-formed operations and configurations, one transaction per test with the expected result taken from
spec/95_test_vectors.md (the vector is named in the docstring) or computed by hand from the rule named there, and for
every statement with hypotheses a witness that meets them. -/

namespace Sys2Proof.Tests

open Sys2Proof Sys2Proof.Machine

/-! ### Small states and observers -/

/-- REFCFG after POR with TSTRW holding 0xAABBCCDD (vectors RV1 to RV17, WV1 to WV19). -/
def withTstrw : State := setCell State.reset 0x300#32 0xAABBCCDD#32

/-- REFCFG after POR with CFGP holding 0x00123456 (vectors RV18 to RV20). -/
def withCfgp : State := setCell State.reset 0x340#32 0x00123456#32

/-- REFCFG after POR with TXREG holding 0x5A (vectors RV21 to RV25). -/
def withTxreg : State := setCell State.reset 0x330#32 0x5A#32

/-- REFCFG after POR with a received byte: RXREG 0x41, STA 1 (vectors RV26, RV27). -/
def withRxreg : State := setCell (setCell State.reset 0x310#32 0x41#32) 0x320#32 1#32

/-- The state after vectors AV1 to AV6: sources 5 and 9 raised at level 3, source 2 enabled at level 6. -/
def tied : State :=
  { State.reset with
    mem := [(0x010, 0x305#32), (0x040, 0x220#32), (0x0C0, 0x224#32), (0x140, 0x00180010#32), (0x150, 0xC00#32),
      (0x160, 0xE00#32), (0x340, 0x1200#32)]
    coreIpl := 3#3 }

/-- The same registers before any arbitration has published them. -/
def unpublished : State :=
  { tied with mem := writeMemory tied.mem 0x010 0#32, coreIpl := 0#3 }

/-- The block after a fatal error (R186). -/
def stopped : State := { State.reset with halted := true }

/-- Stage2-unlocked (R18). -/
def unlocked : State := { withTstrw with unlock := .stage2 }

/-- The first magic word was written (R151). -/
def halfUnlocked : State := { State.reset with unlock := .stage1 }

/-- Source 0 pending and enabled at level 0, with ARB_LEVEL0_WINS true: as vector BV3 has it. -/
def levelZeroWins : State :=
  { State.reset with
    cfg := { refCfg with arbLevel0Wins := true }
    mem := [(0x040, 1#32), (0x0C0, 1#32)] }

/-- RAISE 0 was received and not yet run (P1 step 3). -/
def received : State := { State.reset with inbox := [0x00000000000000000000000020#104] }

/-- The register whose view an address of REFCFG's window selects. -/
def regAt (a : Word) : Descriptor :=
  match busLookup refCfg a with
  | some (d, _) => d
  | none => refRow 0#32 "" .plain

def respOf (o : Host.Outcome State Fault Refusal) : Option Response :=
  match o with
  | .next s => some s.response
  | _ => none

def cellOf (o : Word) (r : Host.Outcome State Fault Refusal) : Option Word :=
  match r with
  | .next s => some (cell s o)
  | _ => none

def evOf (o : Host.Outcome State Fault Refusal) : Option (List Event) :=
  match o with
  | .next s => some s.events
  | _ => none

def unlockOf (o : Host.Outcome State Fault Refusal) : Option Unlock :=
  match o with
  | .next s => some s.unlock
  | _ => none

def countOf (o : Host.Outcome State Fault Refusal) : Option Nat :=
  match o with
  | .next s => some s.arbCount
  | _ => none

/-- The next state, or the reset state where there is none. -/
def nextOf (o : Host.Outcome State Fault Refusal) : State :=
  match o with
  | .next s => s
  | _ => State.reset

/-! ### Decoding: header, then the operand words from the second byte on -/

theorem test_decode_rdB : decode 0x00000000000000000000030100#104 = .ok (.rdB 0x301#32) := by decide

theorem test_decode_rdcB : decode 0x00000000000000000000034501#104 = .ok (.rdcB 0x345#32) := by decide

theorem test_decode_rdsB : decode 0x00000000000000000000034902#104 = .ok (.rdsB 0x349#32) := by decide

theorem test_decode_rdiB : decode 0x00000000000000000000034D03#104 = .ok (.rdiB 0x34D#32) := by decide

theorem test_decode_rdH : decode 0x00000000000000000000030204#104 = .ok (.rdH 0x302#32) := by decide

theorem test_decode_rdcH : decode 0x00000000000000000000034605#104 = .ok (.rdcH 0x346#32) := by decide

theorem test_decode_rdsH : decode 0x00000000000000000000030A06#104 = .ok (.rdsH 0x30A#32) := by decide

theorem test_decode_rdiH : decode 0x00000000000000000000034E07#104 = .ok (.rdiH 0x34E#32) := by decide

theorem test_decode_rdW : decode 0x00000000000000000000130008#104 = .ok (.rdW 0x1300#32) := by decide

theorem test_decode_rdcW : decode 0x00000000000000000000034409#104 = .ok (.rdcW 0x344#32) := by decide

theorem test_decode_rdsW : decode 0x0000000000000000000003380A#104 = .ok (.rdsW 0x338#32) := by decide

theorem test_decode_rdiW : decode 0x0000000000000000FFFFF34C0B#104 = .ok (.rdiW 0xFFFFF34C#32) := by decide

theorem test_decode_wrB : decode 0x00000000FFFFFF120000030110#104 = .ok (.wrB 0x301#32 0xFFFFFF12#32) := by decide

theorem test_decode_wrcB : decode 0x000000000000000F0000030511#104 = .ok (.wrcB 0x305#32 0xF#32) := by decide

theorem test_decode_wrsB : decode 0x00000000000000550000030B12#104 = .ok (.wrsB 0x30B#32 0x55#32) := by decide

theorem test_decode_wriB : decode 0x00000000000000FF0000030C13#104 = .ok (.wriB 0x30C#32 0xFF#32) := by decide

theorem test_decode_wrH : decode 0x00000000000012340000030214#104 = .ok (.wrH 0x302#32 0x1234#32) := by decide

theorem test_decode_wrcH : decode 0x000000000000FF000000030615#104 = .ok (.wrcH 0x306#32 0xFF00#32) := by decide

theorem test_decode_wrsH : decode 0x00000000000003030000030916#104 = .ok (.wrsH 0x309#32 0x303#32) := by decide

theorem test_decode_wriH : decode 0x000000000000FFFF0000030E17#104 = .ok (.wriH 0x30E#32 0xFFFF#32) := by decide

theorem test_decode_wrW : decode 0x00000000123456780000030018#104 = .ok (.wrW 0x300#32 0x12345678#32) := by decide

theorem test_decode_wrcW : decode 0x000000000000FFFF0000030419#104 = .ok (.wrcW 0x304#32 0xFFFF#32) := by decide

theorem test_decode_wrsW : decode 0x0000000000000022000003081A#104 = .ok (.wrsW 0x308#32 0x22#32) := by decide

theorem test_decode_wriW : decode 0x00000000FFFFFFFF0000030C1B#104 = .ok (.wriW 0x30C#32 0xFFFFFFFF#32) := by decide

theorem test_decode_raise : decode 0x00000000000000000000002720#104 = .ok (.raise 39#32) := by decide

theorem test_decode_clear : decode 0x00000000000000000000000921#104 = .ok (.clear 9#32) := by decide

theorem test_decode_push : decode 0x000000FF000000690000031022#104 = .ok (.push 0x310#32 0x69#32 0xFF#32) := by decide

theorem test_decode_por : decode 0x00000000000000000000000040#104 = .ok (.por) := by decide

theorem test_decode_arb : decode 0x00000000000000000000000041#104 = .ok (.arb) := by decide

theorem test_decode_fullreset : decode 0x00000000000000000000000142#104 = .ok (.fullreset .soft) := by decide

/-- SEL with width code 3 is "not a width" (R63). -/
theorem test_decode_rejects_width_code_3 :
    decode 0x0000000000000000000003000C#104 = .error .badWidth ∧
    decode 0x0000000000000000000003001F#104 = .error .badWidth := by decide

/-- PSEL 3, SSEL 3 (R64, R65) and port 3. -/
theorem test_decode_rejects_selector_3 :
    decode 0x00000000000000000000000023#104 = .error .notAnOperation ∧
    decode 0x00000000000000000000000043#104 = .error .notAnOperation ∧
    decode 0x00000000000000000000000060#104 = .error .notAnOperation := by decide

/-- Bits the packet layout keeps zero (log entry 3). -/
theorem test_decode_rejects_reserved_bits :
    decode 0x00000000000000000000000080#104 = .error .reservedBits ∧
    decode 0x00000000000000000000000024#104 = .error .reservedBits ∧
    decode 0x00000000000000010000030008#104 = .error .reservedBits ∧
    decode 0x00000000000000000000000140#104 = .error .reservedBits ∧
    decode 0x00000000000000000000000242#104 = .error .reservedBits := by decide

/-- A table word has no port: it is read on the bus port (log entry 3). -/
theorem test_decode_table_words :
    decodeTableWord 5 0x1B = some (.wriW 0#32 0#32) ∧ decodeTableWord 8 0x0B = some (.rdiW 0#32) ∧
    decodeTableWord 2 0x02 = some (.rdsB 0#32) ∧ decodeTableWord 5 0x0F = none := by decide

/-! ### Well-formedness: each check refuses an ill-formed term -/

theorem smoke_wellFormed_accepts :
    wellFormed refCfg (.rdH 0x301#32) = true ∧ wellFormed refCfg (.wriB 0x34F#32 0#32) = true ∧
    wellFormed refCfg (.raise 39#32) = true ∧ wellFormed refCfg (.push 0x360#32 0#32 0#32) = true := by decide

theorem smoke_wellFormed_refuses_uncontained :
    wellFormed refCfg (.rdH 0x303#32) = false ∧ wellFormed refCfg (.wrW 0x301#32 0#32) = false := by decide

theorem smoke_wellFormed_refuses_wrong_letter :
    wellFormed refCfg (.rdW 0x304#32) = false ∧ wellFormed refCfg (.wrcW 0x308#32 0#32) = false ∧
    wellFormed refCfg (.rdcW 0x354#32) = false := by decide

theorem smoke_wellFormed_refuses_source : wellFormed refCfg (.raise 40#32) = false := by decide

theorem smoke_wellFormed_refuses_push_target :
    wellFormed refCfg (.push 0x040#32 0#32 0#32) = false ∧ wellFormed refCfg (.push 0x304#32 0#32 0#32) = false ∧
    wellFormed refCfg (.push 0x354#32 0#32 0#32) = false := by decide

theorem smoke_config_accepts : wellFormedConfig refCfg = true := by decide

/-- Numeric parameters: more than 256 sources, STAT fields that overlap, a window that is no power of two (R5, R26). -/
theorem smoke_config_refuses_parameters :
    parametersOk { refCfg with numSources := 257 } = false ∧ parametersOk { refCfg with statPriLsb := 4 } = false ∧
    parametersOk { refCfg with windowSize := 0x1010 } = false := by decide

/-- An unaligned base, a protected bit that is not writable, a hook not named, a STAT that is not read-only (R16, R17). -/
theorem smoke_config_refuses_descriptors :
    descriptorOk refCfg (refRow 0x302#32 "X" .plain) = false ∧
    descriptorOk refCfg { refRow 0x370#32 "X" .plain with wmask := 0#32, protmask := 1#32 } = false ∧
    descriptorOk refCfg { refRow 0x370#32 "X" .plain with whook := some "nobody" } = false ∧
    descriptorOk refCfg (refRow 0x010#32 "STAT" .stat) = false := by decide

/-- Overlapping views, a missing role, a pattern for an address without a register (R16, R221). -/
theorem smoke_config_refuses_tables :
    disjointFootprints (refAliased 0x300#32 "X" .plain) (refRow 0x308#32 "Y" .plain) = false ∧
    rolesPresent { refCfg with descTable := refPeripheralRegs } = false ∧
    resetPatternOk { refCfg with resetPattern := [(0x354#32, 1#32)] } = false := by decide

/-! ### One transaction -/

/-- RV2, S5. -/
theorem test_rdB_lane : 
    respOf (exec (.rdB 0x301#32) withTstrw) = some (.okRead (.byte 0xCC#8)) := by decide

/-- RV30. -/
theorem test_rdB_side_and_hook : 
    cellOf 0x320#32 (exec (.rdB 0x310#32) withRxreg) = some 0#32 ∧
    evOf (exec (.rdB 0x310#32) withRxreg) = some [.readHook "uart_rx" 0x310#32 0#2 .byte (.byte 0x41#8)] := by decide

/-- RV6. -/
theorem test_rdH_unaligned : 
    respOf (exec (.rdH 0x301#32) withTstrw) = some (.okRead (.half 0xBBCC#16)) := by decide

/-- RV8. -/
theorem test_rdH_crossing : exec (.rdH 0x303#32) withTstrw = .refused .misalignedOrBadWidth := rfl

/-- RV28. -/
theorem test_rdW_forced : 
    respOf (exec (.rdW 0x320#32) withRxreg) = some (.okRead (.word 0x101#32)) := by decide

/-- RV35. -/
theorem test_rdW_unmapped : 
    exec (.rdW 0x354#32) State.reset = .next { State.reset with
      halted := true, response := .fatal, events := [.fatalUnsupportedRegister 0x354#32 .read] } := rfl

/-- R86, R92 by hand. -/
theorem test_rdcB_base : 
    respOf (exec (.rdcB 0x345#32) withCfgp) = some (.okRead (.byte 0x34#8)) := by decide

/-- RV19. -/
theorem test_rdsB_base : 
    respOf (exec (.rdsB 0x349#32) withCfgp) = some (.okRead (.byte 0x34#8)) := by decide

/-- RV24. -/
theorem test_rdsB_disallowed : 
    respOf (exec (.rdsB 0x338#32) withTxreg) = some (.policyRead (.byte 0x5A#8)) ∧
    evOf (exec (.rdsB 0x338#32) withTxreg) = some [.logPolicyViolation 0x338#32 .read "TXREG"] := by decide

/-- R86, R92 by hand. -/
theorem test_rdiB_base : 
    respOf (exec (.rdiB 0x34D#32) withCfgp) = some (.okRead (.byte 0x34#8)) := by decide

/-- R86, R93 by hand. -/
theorem test_rdcH_base : 
    respOf (exec (.rdcH 0x346#32) withCfgp) = some (.okRead (.half 0x0012#16)) := by decide

/-- R87, R93 by hand. -/
theorem test_rdsH_zero : 
    respOf (exec (.rdsH 0x30A#32) withTstrw) = some (.okRead (.half 0#16)) := by decide

/-- RV20. -/
theorem test_rdiH_base : 
    respOf (exec (.rdiH 0x34E#32) withCfgp) = some (.okRead (.half 0x0012#16)) := by decide

/-- RV25. -/
theorem test_rdiH_disallowed : 
    respOf (exec (.rdiH 0x33C#32) withTxreg) = some (.policyRead (.half 0x005A#16)) := by decide

/-- RV18. -/
theorem test_rdcW_base : 
    respOf (exec (.rdcW 0x344#32) withCfgp) = some (.okRead (.word 0x00123456#32)) := by decide

/-- RV15, S2. -/
theorem test_rdcW_zero : 
    respOf (exec (.rdcW 0x304#32) withTstrw) = some (.okRead (.word 0#32)) := by decide

/-- P5 step 4. -/
theorem test_rdsW_disallowed : 
    respOf (exec (.rdsW 0x338#32) State.reset) = some (.policyRead (.word 0#32)) := by decide

/-- R86, R94 by hand. -/
theorem test_rdiW_base : 
    respOf (exec (.rdiW 0x34C#32) withCfgp) = some (.okRead (.word 0x00123456#32)) := by decide

/-- WV2. -/
theorem test_wrB_high_bits : 
    cellOf 0x300#32 (exec (.wrB 0x301#32 0xFFFFFF12#32) withTstrw) = some 0xAABB12DD#32 := by decide

/-- P3 step 6, from CFGP = 0x00FFA5FF. -/
theorem test_wrB_unlock_violation : 
    evOf (exec (.wrB 0x341#32 0x5A#32) (setCell State.reset 0x340#32 0x00FFA5FF#32)) =
      some [.writeHook "cfg" 0x340#32 0x00FFA5FF#32 0x00FFA5FF#32] := by decide

/-- WV3, S5. -/
theorem test_wrH_upper : 
    cellOf 0x300#32 (exec (.wrH 0x302#32 0x1234#32) withTstrw) = some 0x1234CCDD#32 := by decide

/-- WV4. -/
theorem test_wrH_unaligned : 
    cellOf 0x300#32 (exec (.wrH 0x301#32 0x1234#32) withTstrw) = some 0xAA1234DD#32 := by decide

/-- WV23. -/
theorem test_wrW_hook_and_mask : 
    evOf (exec (.wrW 0x330#32 0x12345641#32) State.reset) = some [.writeHook "uart_tx" 0x330#32 0#32 0x41#32] := by decide

/-- P3 step 10, S9. -/
theorem test_wrW_soft_reset : 
    evOf (exec (.wrW 0x250#32 1#32) unlocked) = some [.periphReset, .requestCpuReset] ∧
    cellOf 0x300#32 (exec (.wrW 0x250#32 1#32) unlocked) = some 0#32 ∧
    unlockOf (exec (.wrW 0x250#32 1#32) unlocked) = some .locked := by decide

/-- WV6, C2. -/
theorem test_wrcB_lane : 
    cellOf 0x300#32 (exec (.wrcB 0x305#32 0x0F#32) withTstrw) = some 0xAABBC0DD#32 := by decide

/-- WV7. -/
theorem test_wrcH_lane : 
    cellOf 0x300#32 (exec (.wrcH 0x306#32 0xFF00#32) withTstrw) = some 0xBBCCDD#32 := by decide

/-- WV18. -/
theorem test_wrcH_crossing : exec (.wrcH 0x307#32 1#32) withTstrw = .refused .misalignedOrBadWidth := rfl

/-- S2. -/
theorem test_wrcW_word : 
    cellOf 0x300#32 (exec (.wrcW 0x304#32 0x0F0F00FF#32) withTstrw) = some 0xA0B0CC00#32 := by decide

/-- WV9. -/
theorem test_wrsB_lane : 
    cellOf 0x300#32 (exec (.wrsB 0x30B#32 0x55#32) withTstrw) = some 0xFFBBCCDD#32 := by decide

/-- KV4 last step. -/
theorem test_wrsB_consumes_unlock : 
    cellOf 0x340#32 (exec (.wrsB 0x34A#32 0xFF#32) { State.reset with unlock := .stage2 }) = some 0xFF1200#32 := by decide

/-- WV10. -/
theorem test_wrsH_unaligned : 
    cellOf 0x300#32 (exec (.wrsH 0x309#32 0x0303#32) withTstrw) = some 0xAABBCFDD#32 := by decide

/-- S2. -/
theorem test_wrsW_word : 
    cellOf 0x300#32 (exec (.wrsW 0x308#32 0x0F0F00FF#32) withTstrw) = some 0xAFBFCCFF#32 := by decide

/-- CV2 with a 4-byte write, by hand from R130 to R133. -/
theorem test_wrsW_fires : 
    evOf (exec (.wrsW 0x048#32 1#32) (setCell State.reset 0x0C0#32 1#32)) = some [.assertHardwareInterrupt 4#3] := by decide

/-- WV12. -/
theorem test_wriB_lane : 
    cellOf 0x300#32 (exec (.wriB 0x30C#32 0xFF#32) withTstrw) = some 0xAABBCC22#32 := by decide

/-- WV13. -/
theorem test_wriH_lane : 
    cellOf 0x300#32 (exec (.wriH 0x30E#32 0xFFFF#32) withTstrw) = some 0x5544CCDD#32 := by decide

/-- S2. -/
theorem test_wriW_word : 
    cellOf 0x300#32 (exec (.wriW 0x30C#32 0x0F0F00FF#32) withTstrw) = some 0xA5B4CC22#32 := by decide

/-- WV21, from IPC0 = 0x1F1F1F1F. -/
theorem test_wriW_masked : 
    cellOf 0x140#32 (exec (.wriW 0x14C#32 0x1F#32) (setCell State.reset 0x140#32 0x1F1F1F1F#32)) = some 0x1F1F1F00#32 := by decide

/-- AV8, S8. -/
theorem test_raise_preempts : 
    cellOf 0x010#32 (exec (.raise 2#32) tied) = some 0x602#32 ∧
    evOf (exec (.raise 2#32) tied) = some [.assertHardwareInterrupt 6#3] := by decide

/-- AV7, S3. -/
theorem test_raise_idempotent : 
    exec (.raise 5#32) tied = .next tied ∧ exec (.raise 40#32) tied = .refused .sourceOutOfRange := ⟨rfl, rfl⟩

/-- AV11. -/
theorem test_clear_next_in_line : 
    cellOf 0x010#32 (exec (.clear 5#32) tied) = some 0x309#32 ∧ evOf (exec (.clear 5#32) tied) = some [] := by decide

/-- AV10. -/
theorem test_clear_idempotent : exec (.clear 2#32) tied = .next tied := rfl

/-- RV26. -/
theorem test_push_masked : 
    cellOf 0x310#32 (exec (.push 0x310#32 0x41#32 0xFF#32) State.reset) = some 0x41#32 := by decide

/-- R171: an IFS register, an alias. -/
theorem test_push_refused : 
    exec (.push 0x040#32 1#32 1#32) State.reset = .refused .pushTarget ∧
    exec (.push 0x304#32 1#32 1#32) State.reset = .refused .pushTarget := ⟨rfl, rfl⟩

/-- P5 step 8. -/
theorem test_por_recovers : 
    evOf (exec .por stopped) = some [.periphReset] ∧ cellOf 0x340#32 (exec .por stopped) = some 0x1200#32 := by decide

/-- AV5 and AV6 in one arbitration, S7. -/
theorem test_arb_publishes : 
    cellOf 0x010#32 (exec .arb unpublished) = some 0x305#32 ∧
    evOf (exec .arb unpublished) = some [.assertHardwareInterrupt 3#3] := by decide

/-- R134. -/
theorem test_arb_counts : countOf (exec .arb tied) = some 1 ∧ evOf (exec .arb tied) = some [] := by decide

/-- P3 step 10. -/
theorem test_fullreset_soft : evOf (exec (.fullreset .soft) tied) = some [.periphReset, .requestCpuReset] := by decide

/-- R221. -/
theorem test_fullreset_por : evOf (exec (.fullreset .por) tied) = some [.periphReset] := by decide

/-- P5 step 7: while halted a write has no step. -/
theorem test_halted_has_no_step : exec (.wrW 0x300#32 1#32) stopped = .fault .halted := rfl

/-- The unlock sequence (KV1): M1, M2. -/
theorem test_unlock_sequence :
    unlockOf (exec (.wrW 0x030#32 0xAA996655#32) State.reset) = some .stage1 ∧
    unlockOf (exec (.wrW 0x030#32 0x556699AA#32) halfUnlocked) = some .stage2 := by decide

/-- R60, P1 step 3: the step runs the transaction received. -/
theorem test_step_runs : step received = exec (.raise 0#32) State.reset := rfl

/-- The host's table word, placed as the first transaction after reset. -/
theorem test_withFetchWord :
    step (State.reset.withFetchWord 8 0x13) = exec (.wriB 0#32 0#32) State.reset := rfl

/-- Read-only registers drop writes (WV28). -/
theorem test_read_only_write :
    exec (.wrW 0x010#32 1#32) State.reset = .next { State.reset with
      response := .policyWrite, events := [.logPolicyViolation 0x010#32 .write "STAT"] } := rfl

/-! ### Witnesses: for every statement with hypotheses, concrete values that meet them together -/

/-- RAISE 2 was received in the state `tied`. -/
def pendingRaise : State := { tied with inbox := [0x00000000000000000000000220#104] }

theorem reset_wf : wellFormedConfig State.reset.cfg = true := smoke_config_accepts

theorem witness_EncodeOfDecode : decode 0x0000000000000001000000C81A#104 = .ok (.wrsW 0x0C8#32 1#32) := by decide

theorem witness_StepRunsTheDecodedTransaction :
    received.inbox = 0x20#104 :: [] ∧ decode 0x20#104 = .ok (.raise 0#32) := by decide

theorem witness_StepWithoutAnOperation :
    (State.reset.inbox = [] ∧ State.reset.halted = false) ∧ (stopped.inbox = [] ∧ stopped.halted = true) ∧
    (({ stopped with inbox := [0x0C#104] } : State).inbox = 0x0C#104 :: [] ∧ decode 0x0C#104 = .error .badWidth ∧
      stopped.halted = true) ∧
    (({ State.reset with inbox := [0x0C#104] } : State).inbox = 0x0C#104 :: [] ∧ decode 0x0C#104 = .error .badWidth ∧
      State.reset.halted = false) ∧
    (({ State.reset with inbox := [0x23#104] } : State).inbox = 0x23#104 :: [] ∧
      decode 0x23#104 = .error .notAnOperation ∧ DecodeError.notAnOperation ≠ .badWidth) := by decide

theorem witness_RegisterFileReadAfterWrite : memoryWf tied.mem ∧ memoryWf State.reset.mem := by decide

/-- The first and last byte of the window, and addresses a window apart. -/
theorem witness_AddressSplit :
    wellFormedConfig refCfg = true ∧ (0xFFFFFFFF#32).toNat % refCfg.windowSize = (0xFFF#32).toNat % refCfg.windowSize ∧
    (0x1000#32).toNat % refCfg.windowSize = (0#32).toNat % refCfg.windowSize := by decide

theorem witness_LookupFindsTheViews :
    wellFormedConfig refCfg = true ∧ regAt 0x300#32 ∈ refCfg.descTable ∧ (regAt 0x300#32).hasAlias = true ∧
    lookup refCfg 0x300#32 = some (regAt 0x300#32, .assign) ∧ lookup refCfg 0x304#32 = some (regAt 0x300#32, .clr) ∧
    lookup refCfg 0x308#32 = some (regAt 0x300#32, .set) ∧ lookup refCfg 0x30C#32 = some (regAt 0x300#32, .inv) := by
  decide

/-- Every width at its last lane; a register with forcing, and one with a side effect and a hook. -/
theorem witness_BaseReadReturnsTheLanes :
    (readForm (.rdB 0x303#32) = some (.byte, .assign, 0x303#32) ∧ withTstrw.halted = false ∧
      wellFormedConfig withTstrw.cfg = true ∧ memoryWf withTstrw.mem ∧
      (0x303#32).toNat % 4 + widthBytes .byte ≤ 4 ∧
      busLookup withTstrw.cfg 0x303#32 = some (regAt 0x303#32, .assign) ∧ (regAt 0x303#32).policy ≠ .wo) ∧
    (readForm (.rdH 0x312#32) = some (.half, .assign, 0x312#32) ∧ withRxreg.halted = false ∧
      wellFormedConfig withRxreg.cfg = true ∧ memoryWf withRxreg.mem ∧
      (0x312#32).toNat % 4 + widthBytes .half ≤ 4 ∧
      busLookup withRxreg.cfg 0x312#32 = some (regAt 0x312#32, .assign) ∧ (regAt 0x312#32).policy ≠ .wo) ∧
    (readForm (.rdW 0x320#32) = some (.word, .assign, 0x320#32) ∧ withRxreg.halted = false ∧
      wellFormedConfig withRxreg.cfg = true ∧ memoryWf withRxreg.mem ∧
      (0x320#32).toNat % 4 + widthBytes .word ≤ 4 ∧
      busLookup withRxreg.cfg 0x320#32 = some (regAt 0x320#32, .assign) ∧ (regAt 0x320#32).policy ≠ .wo) := by
  decide

theorem witness_WriteOnlyReadIsLogged :
    readForm (.rdB 0x333#32) = some (.byte, .assign, 0x333#32) ∧ withTxreg.halted = false ∧
    wellFormedConfig withTxreg.cfg = true ∧ (0x333#32).toNat % 4 + widthBytes .byte ≤ 4 ∧
    busLookup withTxreg.cfg 0x333#32 = some (regAt 0x333#32, .assign) ∧ (regAt 0x333#32).policy = .wo := by decide

theorem witness_AliasReadReturnsBaseOrZero :
    (readForm (.rdiB 0x34F#32) = some (.byte, .inv, 0x34F#32) ∧ OpCode.inv ≠ .assign ∧ withCfgp.halted = false ∧
      wellFormedConfig withCfgp.cfg = true ∧ (0x34F#32).toNat % 4 + widthBytes .byte ≤ 4 ∧
      busLookup withCfgp.cfg 0x34F#32 = some (regAt 0x34F#32, .inv) ∧ (regAt 0x34F#32).aliasRead = .base) ∧
    (readForm (.rdcH 0x306#32) = some (.half, .clr, 0x306#32) ∧ OpCode.clr ≠ .assign ∧ withTstrw.halted = false ∧
      wellFormedConfig withTstrw.cfg = true ∧ (0x306#32).toNat % 4 + widthBytes .half ≤ 4 ∧
      busLookup withTstrw.cfg 0x306#32 = some (regAt 0x306#32, .clr) ∧ (regAt 0x306#32).aliasRead = .zero) := by
  decide

theorem witness_DisallowedAliasReadIsLogged :
    readForm (.rdsW 0x338#32) = some (.word, .set, 0x338#32) ∧ OpCode.set ≠ .assign ∧ withTxreg.halted = false ∧
    wellFormedConfig withTxreg.cfg = true ∧ (0x338#32).toNat % 4 + widthBytes .word ≤ 4 ∧
    busLookup withTxreg.cfg 0x338#32 = some (regAt 0x338#32, .set) ∧ (regAt 0x338#32).aliasRead = .disallowed := by
  decide

/-- With a cell that the read changes: STA. -/
theorem witness_ReadsNeverPublish :
    readForm (.rdB 0x310#32) = some (.byte, .assign, 0x310#32) ∧ wellFormedConfig withRxreg.cfg = true ∧
    memoryWf withRxreg.mem ∧ exec (.rdB 0x310#32) withRxreg = .next (nextOf (exec (.rdB 0x310#32) withRxreg)) ∧
    cell (nextOf (exec (.rdB 0x310#32) withRxreg)) 0x320#32 ≠ cell withRxreg 0x320#32 :=
  ⟨rfl, smoke_config_accepts, by decide, rfl, by decide⟩

theorem witness_ReadsDoNotShowTheUnlockState :
    readForm (.rdW 0x030#32) = some (.word, .assign, 0x030#32) ∧
    exec (.rdW 0x030#32) halfUnlocked = .next (nextOf (exec (.rdW 0x030#32) halfUnlocked)) := ⟨rfl, rfl⟩

/-- A plain register in Stage2 at its last byte, and RSWRST outside Stage2, where no word triggers. -/
theorem witness_AssignWriteCommits :
    (writeForm (.wrB 0x303#32 0x77#32) = some (.byte, .assign, 0x303#32, 0x77#32) ∧ unlocked.halted = false ∧
      wellFormedConfig unlocked.cfg = true ∧ memoryWf unlocked.mem ∧ (0x303#32).toNat % 4 + widthBytes .byte ≤ 4 ∧
      busLookup unlocked.cfg 0x303#32 = some (regAt 0x303#32, .assign) ∧ (regAt 0x303#32).policy ≠ .ro ∧
      isInterruptRole (regAt 0x303#32).role = false ∧ ∀ new, ¬ resetWrite unlocked (regAt 0x303#32) new) ∧
    (writeForm (.wrW 0x250#32 1#32) = some (.word, .assign, 0x250#32, 1#32) ∧ halfUnlocked.halted = false ∧
      wellFormedConfig halfUnlocked.cfg = true ∧ memoryWf halfUnlocked.mem ∧
      (0x250#32).toNat % 4 + widthBytes .word ≤ 4 ∧
      busLookup halfUnlocked.cfg 0x250#32 = some (regAt 0x250#32, .assign) ∧ (regAt 0x250#32).policy ≠ .ro ∧
      isInterruptRole (regAt 0x250#32).role = false ∧ ∀ new, ¬ resetWrite halfUnlocked (regAt 0x250#32) new) :=
  ⟨⟨rfl, rfl, smoke_config_accepts, by decide, by decide, rfl, by decide, rfl, fun _ h => nomatch h.1⟩,
   ⟨rfl, rfl, smoke_config_accepts, by decide, by decide, rfl, by decide, rfl, fun _ h => nomatch h.2.1⟩⟩

theorem witness_ClearWriteCommits :
    writeForm (.wrcH 0x306#32 0xFF00#32) = some (.half, .clr, 0x306#32, 0xFF00#32) ∧ withTstrw.halted = false ∧
    wellFormedConfig withTstrw.cfg = true ∧ memoryWf withTstrw.mem ∧ (0x306#32).toNat % 4 + widthBytes .half ≤ 4 ∧
    busLookup withTstrw.cfg 0x306#32 = some (regAt 0x306#32, .clr) ∧ (regAt 0x306#32).policy ≠ .ro ∧
    isInterruptRole (regAt 0x306#32).role = false ∧ ∀ new, ¬ resetWrite withTstrw (regAt 0x306#32) new :=
  ⟨rfl, rfl, smoke_config_accepts, by decide, by decide, rfl, by decide, rfl, fun _ h => nomatch h.1⟩

theorem witness_SetWriteCommits :
    writeForm (.wrsB 0x34B#32 0x80#32) = some (.byte, .set, 0x34B#32, 0x80#32) ∧ unlocked.halted = false ∧
    wellFormedConfig unlocked.cfg = true ∧ memoryWf unlocked.mem ∧ (0x34B#32).toNat % 4 + widthBytes .byte ≤ 4 ∧
    busLookup unlocked.cfg 0x34B#32 = some (regAt 0x34B#32, .set) ∧ (regAt 0x34B#32).policy ≠ .ro ∧
    isInterruptRole (regAt 0x34B#32).role = false ∧ ∀ new, ¬ resetWrite unlocked (regAt 0x34B#32) new :=
  ⟨rfl, rfl, smoke_config_accepts, by decide, by decide, rfl, by decide, rfl, fun _ h => nomatch h.1⟩

theorem witness_InvertWriteCommits :
    writeForm (.wriW 0x33C#32 0xFF#32) = some (.word, .inv, 0x33C#32, 0xFF#32) ∧ withTxreg.halted = false ∧
    wellFormedConfig withTxreg.cfg = true ∧ memoryWf withTxreg.mem ∧ (0x33C#32).toNat % 4 + widthBytes .word ≤ 4 ∧
    busLookup withTxreg.cfg 0x33C#32 = some (regAt 0x33C#32, .inv) ∧ (regAt 0x33C#32).policy ≠ .ro ∧
    isInterruptRole (regAt 0x33C#32).role = false ∧ ∀ new, ¬ resetWrite withTxreg (regAt 0x33C#32) new :=
  ⟨rfl, rfl, smoke_config_accepts, by decide, by decide, rfl, by decide, rfl, fun _ h => nomatch h.1⟩

/-- Each view once: IPC0 assign, IFS0 clear, IEC0 set, IPC9 invert at its last byte. -/
theorem witness_InterruptRegisterWriteArbitrates :
    (tied.halted = false ∧ wellFormedConfig tied.cfg = true ∧ memoryWf tied.mem) ∧
    (writeForm (.wrB 0x141#32 0xFF#32) = some (.byte, .assign, 0x141#32, 0xFF#32) ∧
      (0x141#32).toNat % 4 + widthBytes .byte ≤ 4 ∧
      busLookup tied.cfg 0x141#32 = some (regAt 0x141#32, .assign) ∧ isInterruptRole (regAt 0x141#32).role = true) ∧
    (writeForm (.wrcH 0x046#32 1#32) = some (.half, .clr, 0x046#32, 1#32) ∧
      (0x046#32).toNat % 4 + widthBytes .half ≤ 4 ∧
      busLookup tied.cfg 0x046#32 = some (regAt 0x046#32, .clr) ∧ isInterruptRole (regAt 0x046#32).role = true) ∧
    (writeForm (.wrsW 0x0C8#32 1#32) = some (.word, .set, 0x0C8#32, 1#32) ∧
      (0x0C8#32).toNat % 4 + widthBytes .word ≤ 4 ∧
      busLookup tied.cfg 0x0C8#32 = some (regAt 0x0C8#32, .set) ∧ isInterruptRole (regAt 0x0C8#32).role = true) ∧
    (writeForm (.wriB 0x1DF#32 4#32) = some (.byte, .inv, 0x1DF#32, 4#32) ∧
      (0x1DF#32).toNat % 4 + widthBytes .byte ≤ 4 ∧
      busLookup tied.cfg 0x1DF#32 = some (regAt 0x1DF#32, .inv) ∧ isInterruptRole (regAt 0x1DF#32).role = true) := by
  refine ⟨?_, ?_, ?_, ?_, ?_⟩ <;> decide

/-- Halted; the first lane that is not contained; an unmapped word; a read-only register. -/
theorem witness_WriteChecks :
    wellFormedConfig refCfg = true ∧ stopped.halted = true ∧ State.reset.halted = false ∧
    (writeForm (.wrH 0x303#32 0#32) = some (.half, .assign, 0x303#32, 0#32) ∧
      4 < (0x303#32).toNat % 4 + widthBytes .half) ∧
    (writeForm (.wrB 0x403#32 0#32) = some (.byte, .assign, 0x403#32, 0#32) ∧
      (0x403#32).toNat % 4 + widthBytes .byte ≤ 4 ∧ busLookup State.reset.cfg 0x403#32 = none) ∧
    (writeForm (.wrW 0x010#32 1#32) = some (.word, .assign, 0x010#32, 1#32) ∧
      (0x010#32).toNat % 4 + widthBytes .word ≤ 4 ∧
      busLookup State.reset.cfg 0x010#32 = some (regAt 0x010#32, .assign) ∧ (regAt 0x010#32).policy = .ro) := by decide

/-- A protected register while Locked. -/
theorem witness_WriteMaskIsRespected :
    writeForm (.wrW 0x340#32 0xFFFFFFFF#32) = some (.word, .assign, 0x340#32, 0xFFFFFFFF#32) ∧
    wellFormedConfig State.reset.cfg = true ∧ memoryWf State.reset.mem ∧
    busLookup State.reset.cfg 0x340#32 = some (regAt 0x340#32, .assign) ∧
    exec (.wrW 0x340#32 0xFFFFFFFF#32) State.reset = .next (nextOf (exec (.wrW 0x340#32 0xFFFFFFFF#32) State.reset)) ∧
    Event.requestCpuReset ∉ (nextOf (exec (.wrW 0x340#32 0xFFFFFFFF#32) State.reset)).events ∧
    State.reset.unlock ≠ .stage2 :=
  ⟨rfl, smoke_config_accepts, by decide, rfl, rfl, by decide, by decide⟩

theorem witness_HighValueBitsAreIgnored :
    0xFFFFFF12#32 &&& 0xFF#32 = 0x12#32 &&& 0xFF#32 ∧ 0xABCD1234#32 &&& 0xFFFF#32 = 0x1234#32 &&& 0xFFFF#32 := by
  decide

/-- Each width, at its last lane: a plain register; an interrupt register whose state is published; a protected byte while
Locked; the same byte in Stage2. -/
theorem witness_InvertTwiceRestores :
    (wellFormedConfig refCfg = true ∧ memoryWf withTstrw.mem ∧ memoryWf tied.mem ∧ memoryWf withCfgp.mem ∧
      memoryWf unlocked.mem ∧ consistent tied) ∧
    (writeForm (.wriW 0x30C#32 0xF0#32) = some (.word, .inv, 0x30C#32, 0xF0#32) ∧
      busLookup withTstrw.cfg 0x30C#32 = some (regAt 0x30C#32, .inv) ∧ (regAt 0x30C#32).policy ≠ .ro ∧
      (regAt 0x30C#32).protmask = 0#32 ∧
      ∃ t u, exec (.wriW 0x30C#32 0xF0#32) withTstrw = .next t ∧ exec (.wriW 0x30C#32 0xF0#32) t = .next u) ∧
    (writeForm (.wriH 0x0CE#32 0xFFFF#32) = some (.half, .inv, 0x0CE#32, 0xFFFF#32) ∧
      busLookup tied.cfg 0x0CE#32 = some (regAt 0x0CE#32, .inv) ∧ (regAt 0x0CE#32).policy ≠ .ro ∧
      (regAt 0x0CE#32).protmask = 0#32 ∧
      ∃ t u, exec (.wriH 0x0CE#32 0xFFFF#32) tied = .next t ∧ exec (.wriH 0x0CE#32 0xFFFF#32) t = .next u) ∧
    (writeForm (.wriB 0x34F#32 0xFF#32) = some (.byte, .inv, 0x34F#32, 0xFF#32) ∧
      busLookup withCfgp.cfg 0x34F#32 = some (regAt 0x34F#32, .inv) ∧ (regAt 0x34F#32).policy ≠ .ro ∧
      withCfgp.unlock ≠ .stage2 ∧ unlocked.unlock = .stage2 ∧ (regAt 0x34F#32).protmask ≠ 0#32 ∧
      (∃ t u, exec (.wriB 0x34F#32 0xFF#32) withCfgp = .next t ∧ exec (.wriB 0x34F#32 0xFF#32) t = .next u) ∧
      ∃ t u, exec (.wriB 0x34F#32 0xFF#32) unlocked = .next t ∧ exec (.wriB 0x34F#32 0xFF#32) t = .next u ∧
        Event.requestCpuReset ∉ t.events) :=
  ⟨⟨smoke_config_accepts, by decide, by decide, by decide, by decide, by unfold consistent; decide⟩,
   ⟨rfl, rfl, by decide, rfl, _, _, rfl, rfl⟩, ⟨rfl, rfl, by decide, rfl, _, _, rfl, rfl⟩,
   ⟨rfl, rfl, by decide, by decide, rfl, by decide, ⟨_, _, rfl, rfl⟩, _, _, rfl, rfl, by decide⟩⟩

theorem witness_FourByteWritesMakeAWord :
    wellFormedConfig State.reset.cfg = true ∧ memoryWf State.reset.mem ∧
    regAt 0x300#32 ∈ State.reset.cfg.descTable ∧ (regAt 0x300#32).role = .plain ∧ (regAt 0x300#32).policy = .rw ∧
    (regAt 0x300#32).wmask = 0xFFFFFFFF#32 ∧ (regAt 0x300#32).protmask = 0#32 ∧
    (regAt 0x300#32).rforceMask = 0#32 ∧
    ∃ t0 t1 t2 t3 t, exec (.wrB (regAt 0x300#32).base ((0x11#8).setWidth 32)) State.reset = .next t0 ∧
      exec (.wrB ((regAt 0x300#32).base + 1#32) ((0x22#8).setWidth 32)) t0 = .next t1 ∧
      exec (.wrB ((regAt 0x300#32).base + 2#32) ((0x33#8).setWidth 32)) t1 = .next t2 ∧
      exec (.wrB ((regAt 0x300#32).base + 3#32) ((0x44#8).setWidth 32)) t2 = .next t3 ∧
      exec (.rdW (regAt 0x300#32).base) t3 = .next t :=
  ⟨smoke_config_accepts, by decide, by decide, rfl, rfl, rfl, rfl, rfl, _, _, _, _, _, rfl, rfl, rfl, rfl, rfl⟩

theorem witness_UnsupportedRegisterHalts :
    wellFormedConfig refCfg = true ∧
    (readForm (.rdW 0x354#32) = some (.word, .assign, 0x354#32) ∧ State.reset.halted = false ∧
      (0x354#32).toNat % 4 + widthBytes .word ≤ 4 ∧ busLookup State.reset.cfg 0x354#32 = none) ∧
    (writeForm (.wrB 0xFFF#32 0#32) = some (.byte, .assign, 0xFFF#32, 0#32) ∧ State.reset.halted = false ∧
      (0xFFF#32).toNat % 4 + widthBytes .byte ≤ 4 ∧ busLookup State.reset.cfg 0xFFF#32 = none) ∧
    (stopped.halted = true ∧ Instr.arb ≠ .por) := by decide

/-- A read and a write; and a state or address for every branch. -/
theorem witness_FirstCheckDecides :
    wellFormedConfig refCfg = true ∧ stopped.halted = true ∧ State.reset.halted = false ∧
    (readForm (.rdH 0x303#32) = some (.half, .assign, 0x303#32) ∧ 4 < (0x303#32).toNat % 4 + widthBytes .half) ∧
    (readForm (.rdB 0x357#32) = some (.byte, .assign, 0x357#32) ∧ busLookup refCfg 0x357#32 = none) ∧
    (writeForm (.wrB 0x310#32 1#32) = some (.byte, .assign, 0x310#32, 1#32) ∧
      busLookup refCfg 0x310#32 = some (regAt 0x310#32, .assign) ∧ (regAt 0x310#32).policy = .ro) ∧
    (readForm (.rdW 0x330#32) = some (.word, .assign, 0x330#32) ∧
      busLookup refCfg 0x330#32 = some (regAt 0x330#32, .assign) ∧ (regAt 0x330#32).policy = .wo) ∧
    (readForm (.rdcW 0x334#32) = some (.word, .clr, 0x334#32) ∧
      busLookup refCfg 0x334#32 = some (regAt 0x334#32, .clr) ∧ (regAt 0x334#32).aliasRead = .disallowed) ∧
    (writeForm (.wrW 0x300#32 1#32) = some (.word, .assign, 0x300#32, 1#32) ∧
      busLookup refCfg 0x300#32 = some (regAt 0x300#32, .assign) ∧ (regAt 0x300#32).policy = .rw) := by
  refine ⟨?_, ?_, ?_, ?_, ?_, ?_, ?_, ?_, ?_⟩ <;> decide

theorem witness_OnlyUnmappedAccessHalts :
    exec (.rdW 0x354#32) State.reset = .next (nextOf (exec (.rdW 0x354#32) State.reset)) ∧
    (nextOf (exec (.rdW 0x354#32) State.reset)).halted = true := ⟨rfl, rfl⟩

/-- One line of the table: a KEY write of a word, an unlock state, the state after. -/
theorem witness_UnlockFollowsTheTable :
    (wellFormedConfig State.reset.cfg = true ∧ memoryWf State.reset.mem ∧
      busLookup State.reset.cfg 0x030#32 = some (regAt 0x030#32, .assign) ∧ (regAt 0x030#32).policy ≠ .ro ∧
      (regAt 0x030#32).role = .key) ∧
    (∃ t, exec (.wrW 0x030#32 0xAA996655#32) State.reset = .next t ∧ Event.requestCpuReset ∉ t.events ∧
      cell t (regAt 0x030#32).base = refCfg.magic1) ∧
    (∃ t, exec (.wrW 0x030#32 0x556699AA#32) State.reset = .next t ∧ Event.requestCpuReset ∉ t.events ∧
      cell t (regAt 0x030#32).base ≠ refCfg.magic1) ∧
    (∃ t, exec (.wrW 0x030#32 0x556699AA#32) halfUnlocked = .next t ∧ Event.requestCpuReset ∉ t.events ∧
      cell t (regAt 0x030#32).base = refCfg.magic2) ∧
    (∃ t, exec (.wrW 0x030#32 0xAA996655#32) halfUnlocked = .next t ∧ Event.requestCpuReset ∉ t.events ∧
      cell t (regAt 0x030#32).base ≠ refCfg.magic2) ∧
    (∃ t, exec (.wrW 0x030#32 0x556699AA#32) unlocked = .next t ∧ Event.requestCpuReset ∉ t.events) ∧
    ((regAt 0x250#32).role = .rswrst ∧ ∃ t, exec (.wrW 0x250#32 0#32) unlocked = .next t ∧
      Event.requestCpuReset ∉ t.events) ∧
    ((regAt 0x340#32).protmask ≠ 0#32 ∧ ∃ t, exec (.wrW 0x340#32 0#32) unlocked = .next t ∧
      Event.requestCpuReset ∉ t.events) ∧
    ((regAt 0x300#32).role ≠ .key ∧ (regAt 0x300#32).role ≠ .rswrst ∧ (regAt 0x300#32).protmask = 0#32 ∧
      ∃ t, exec (.wrW 0x300#32 0#32) unlocked = .next t ∧ Event.requestCpuReset ∉ t.events) :=
  ⟨⟨smoke_config_accepts, by decide, rfl, by decide, rfl⟩, ⟨_, rfl, by decide, by decide⟩,
   ⟨_, rfl, by decide, by decide⟩, ⟨_, rfl, by decide, by decide⟩, ⟨_, rfl, by decide, by decide⟩,
   ⟨_, rfl, by decide⟩, ⟨rfl, _, rfl, by decide⟩, ⟨by decide, _, rfl, by decide⟩,
   ⟨by decide, by decide, rfl, _, rfl, by decide⟩⟩

/-- A RAISE, and a write to an unprotected register, in the middle of the unlock sequence (KV4). -/
theorem witness_OtherTransactionsKeepUnlock :
    (exec (.raise 3#32) halfUnlocked = .next (nextOf (exec (.raise 3#32) halfUnlocked)) ∧
      Instr.raise 3#32 ≠ .por ∧ (∀ k, Instr.raise 3#32 ≠ .fullreset k) ∧
      ∀ w op a v, writeForm (.raise 3#32) ≠ some (w, op, a, v)) ∧
    (exec (.wrW 0x300#32 1#32) halfUnlocked = .next (nextOf (exec (.wrW 0x300#32 1#32) halfUnlocked)) ∧
      ∀ w op a v d op', writeForm (.wrW 0x300#32 1#32) = some (w, op, a, v) →
        busLookup halfUnlocked.cfg a = some (d, op') →
        d.policy = .ro ∨ (d.role ≠ .key ∧ d.role ≠ .rswrst ∧ d.protmask = 0#32)) := by
  refine ⟨⟨rfl, by decide, fun k => nofun, fun _ _ _ _ => nofun⟩, rfl, ?_⟩
  intro w op a v d op' hf hl
  cases hf
  cases (show some (regAt 0x300#32, OpCode.assign) = some (d, op') from hl)
  decide

/-- A protected field at its last byte while Locked; RSWRST in Stage1. -/
theorem witness_UnlockViolationIsSilent :
    (writeForm (.wriB 0x34D#32 0xFF#32) = some (.byte, .inv, 0x34D#32, 0xFF#32) ∧ State.reset.halted = false ∧
      wellFormedConfig State.reset.cfg = true ∧ memoryWf State.reset.mem ∧
      (0x34D#32).toNat % 4 + widthBytes .byte ≤ 4 ∧
      busLookup State.reset.cfg 0x34D#32 = some (regAt 0x34D#32, .inv) ∧ (regAt 0x34D#32).policy ≠ .ro ∧
      (regAt 0x34D#32).protmask ≠ 0#32 ∧ State.reset.unlock ≠ .stage2) ∧
    (writeForm (.wrB 0x250#32 1#32) = some (.byte, .assign, 0x250#32, 1#32) ∧ halfUnlocked.halted = false ∧
      wellFormedConfig halfUnlocked.cfg = true ∧ memoryWf halfUnlocked.mem ∧
      (0x250#32).toNat % 4 + widthBytes .byte ≤ 4 ∧
      busLookup halfUnlocked.cfg 0x250#32 = some (regAt 0x250#32, .assign) ∧ (regAt 0x250#32).policy ≠ .ro ∧
      (regAt 0x250#32).role = .rswrst ∧ halfUnlocked.unlock ≠ .stage2) := by decide

/-- The three rows of R154. -/
theorem witness_ResetTriggerRegister :
    (unlocked.halted = false ∧ wellFormedConfig unlocked.cfg = true ∧ memoryWf unlocked.mem ∧
      (0x250#32).toNat % 4 + widthBytes .word ≤ 4 ∧
      busLookup unlocked.cfg 0x250#32 = some (regAt 0x250#32, .assign) ∧ (regAt 0x250#32).role = .rswrst ∧
      writeForm (.wrW 0x250#32 0#32) = some (.word, .assign, 0x250#32, 0#32) ∧
      writeForm (.wrW 0x250#32 1#32) = some (.word, .assign, 0x250#32, 1#32)) ∧
    halfUnlocked.unlock ≠ .stage2 ∧
    (let old := cell unlocked (regAt 0x250#32).base
     unlocked.unlock = .stage2 ∧
      ((((old &&& ~~~ lanesMask .word 0) ||| laneOperand 0#32 .word 0) &&& (regAt 0x250#32).wmask) |||
        (old &&& ~~~ (regAt 0x250#32).wmask)) &&& unlocked.cfg.resetTriggerMask = 0#32) ∧
    (let old := cell unlocked (regAt 0x250#32).base
     unlocked.unlock = .stage2 ∧
      ((((old &&& ~~~ lanesMask .word 0) ||| laneOperand 1#32 .word 0) &&& (regAt 0x250#32).wmask) |||
        (old &&& ~~~ (regAt 0x250#32).wmask)) &&& unlocked.cfg.resetTriggerMask ≠ 0#32) := by decide

theorem witness_CpuResetNeedsTheUnlock :
    wellFormedConfig unlocked.cfg = true ∧ requestable (.wrW 0x250#32 1#32) = true ∧
    exec (.wrW 0x250#32 1#32) unlocked = .next (nextOf (exec (.wrW 0x250#32 1#32) unlocked)) ∧
    Event.requestCpuReset ∈ (nextOf (exec (.wrW 0x250#32 1#32) unlocked)).events :=
  ⟨smoke_config_accepts, rfl, rfl, by decide⟩

theorem witness_SoftwareResetSequence :
    wellFormedConfig withTstrw.cfg = true ∧ memoryWf withTstrw.mem ∧ withTstrw.halted = false ∧
    withTstrw.unlock = .locked ∧ withTstrw.cfg.resetTriggerMask ≠ 0#32 := by decide

/-- A tie that source 5 wins; nothing armed; ARB_LEVEL0_WINS with nothing armed and with source 0 armed at level 0. -/
theorem witness_ScanFindsTheWinner :
    winner tied 5 ∧
    ((∀ i, i < State.reset.cfg.numSources → armed State.reset i = true → level State.reset i = 0#3) ∧
      State.reset.cfg.arbLevel0Wins = false) ∧
    (levelZeroWins.cfg.arbLevel0Wins = true ∧
      (∀ i, i < levelZeroWins.cfg.numSources → armed levelZeroWins i = true → level levelZeroWins i = 0#3) ∧
      armed levelZeroWins 0 = true ∧ ∀ j, j < 0 → armed levelZeroWins j = false) ∧
    (∀ i, i < refCfg.numSources → armed { levelZeroWins with mem := [] } i = false) ∧
    (5 < tied.cfg.numSources ∧ armed tied 5 = true ∧ level tied 5 ≠ 0#3) := by
  unfold winner
  decide

/-- The same sources with another sub-priority of source 9 and with a flag bit past N; and the last source. -/
theorem witness_SubPriorityNeverDecides :
    let other := setCell (setCell tied 0x160#32 0xC00#32) 0x050#32 0x100#32
    (wellFormedConfig tied.cfg = true ∧ memoryWf tied.mem) ∧
    (other.cfg = tied.cfg ∧ memoryWf other.mem ∧ subprio other 9 ≠ subprio tied 9 ∧
      (∀ d ∈ tied.cfg.descTable, ∀ n, n < 32 → scannedBit tied.cfg d n = true →
        (cell other d.base).getLsbD n = (cell tied d.base).getLsbD n) ∧
      (∃ s', exec .arb tied = .next s') ∧ ∃ t', exec .arb other = .next t') ∧
    39 < tied.cfg.numSources :=
  ⟨⟨smoke_config_accepts, by decide⟩, ⟨rfl, by decide, by decide, by decide, ⟨_, rfl⟩, ⟨_, rfl⟩⟩, by decide⟩

/-- The last source, 39: bit 7 of IFS1 and IEC1, lane 3 of IPC9; and its level's and sub-priority's last bits. -/
theorem witness_SourceAccessorsReadTheirBits :
    wellFormedConfig tied.cfg = true ∧
    (regAt 0x050#32 ∈ tied.cfg.descTable ∧ (regAt 0x050#32).role = .ifs 1 ∧ 7 < 32 ∧
      32 * 1 + 7 < tied.cfg.numSources) ∧
    (regAt 0x0D0#32 ∈ tied.cfg.descTable ∧ (regAt 0x0D0#32).role = .iec 1) ∧
    (regAt 0x1D0#32 ∈ tied.cfg.descTable ∧ (regAt 0x1D0#32).role = .ipc 9 ∧ 3 < 4 ∧
      4 * 9 + 3 < tied.cfg.numSources ∧ 2 < 3 ∧ 1 < 2) := by decide

/-- The four cases of signalling: a new level, the same level, a level withdrawn, nothing. -/
theorem witness_ArbPublishesAndSignals :
    (unpublished.halted = false ∧ memoryWf unpublished.mem ∧ (scan unpublished).any = true ∧
      (scan unpublished).lvl ≠ 0#3 ∧ (scan unpublished).lvl ≠ unpublished.coreIpl) ∧
    (tied.halted = false ∧ memoryWf tied.mem ∧ (scan tied).any = true ∧ (scan tied).lvl ≠ 0#3 ∧
      (scan tied).lvl = tied.coreIpl) ∧
    ((scan { State.reset with coreIpl := 3#3 }).any = false ∧ (3#3 : Level) ≠ 0#3) ∧
    ((scan State.reset).any = false ∧ State.reset.coreIpl = 0#3) ∧
    ((scan levelZeroWins).any = true ∧ (scan levelZeroWins).lvl = 0#3 ∧ levelZeroWins.coreIpl = 0#3) := by decide

theorem witness_SecondArbIsQuiet :
    wellFormedConfig unpublished.cfg = true ∧ memoryWf unpublished.mem ∧
    exec .arb unpublished = .next (nextOf (exec .arb unpublished)) := ⟨smoke_config_accepts, by decide, rfl⟩

/-- A source flagged already, and the last source, not flagged. -/
theorem witness_RaiseSetsTheFlag :
    tied.halted = false ∧ wellFormedConfig tied.cfg = true ∧ memoryWf tied.mem ∧
    ((5#32).toNat < tied.cfg.numSources ∧ flag tied (5#32).toNat = true) ∧
    ((39#32).toNat < tied.cfg.numSources ∧ flag tied (39#32).toNat = false) := by decide

theorem witness_ClearClearsTheFlag :
    tied.halted = false ∧ wellFormedConfig tied.cfg = true ∧ memoryWf tied.mem ∧
    ((0#32).toNat < tied.cfg.numSources ∧ flag tied (0#32).toNat = false) ∧
    ((9#32).toNat < tied.cfg.numSources ∧ flag tied (9#32).toNat = true) := by decide

theorem witness_SourceOutOfRangeIsRefused :
    State.reset.halted = false ∧ State.reset.cfg.numSources ≤ (40#32).toNat := by decide

theorem tied_invariant : invariant tied :=
  ⟨smoke_config_accepts, by decide, by unfold onlyBasesListed; decide, by unfold consistent; decide⟩

theorem witness_RaiseThenClearRoundTrip :
    invariant tied ∧ flag tied (2#32).toNat = false ∧
    ∃ t u, exec (.raise 2#32) tied = .next t ∧ exec (.clear 2#32) t = .next u :=
  ⟨tied_invariant, by decide, _, _, rfl, rfl⟩

/-- With each way to arbitrate: RAISE, CLEAR, ARB, a soft reset, a write to an interrupt register, a reset write. -/
theorem witness_ArbitrationPoints :
    wellFormedConfig refCfg = true ∧ Instr.raise 2#32 ≠ .por ∧ Instr.raise 2#32 ≠ .fullreset .por ∧
    (∃ t, exec (.raise 2#32) tied = .next t ∧ flag tied (2#32).toNat = false) ∧
    (∃ t, exec (.clear 5#32) tied = .next t ∧ flag tied (5#32).toNat = true) ∧
    (∃ t, exec .arb tied = .next t) ∧ (∃ t, exec (.fullreset .soft) tied = .next t) ∧
    (∃ t, exec (.wrcB 0x044#32 0x20#32) tied = .next t ∧ isInterruptRole (regAt 0x044#32).role = true) ∧
    (∃ t, exec (.wrW 0x250#32 1#32) unlocked = .next t ∧ Event.requestCpuReset ∈ t.events) :=
  ⟨smoke_config_accepts, by decide, by decide, ⟨_, rfl, by decide⟩, ⟨_, rfl, by decide⟩, ⟨_, rfl⟩, ⟨_, rfl⟩,
   ⟨_, rfl, by decide⟩, ⟨_, rfl, by decide⟩⟩

theorem witness_AssertOnlyOnChange :
    exec (.raise 2#32) tied = .next (nextOf (exec (.raise 2#32) tied)) ∧
    Event.assertHardwareInterrupt 6#3 ∈ (nextOf (exec (.raise 2#32) tied)).events := ⟨rfl, by decide⟩

/-- A PLAIN and an OFF register; an interrupt register and an unmapped offset. -/
theorem witness_PushUpdatesTheCell :
    State.reset.halted = false ∧ memoryWf State.reset.mem ∧
    (lookup State.reset.cfg 0x310#32 = some (regAt 0x310#32, .assign) ∧ (regAt 0x310#32).role = .plain) ∧
    (lookup State.reset.cfg 0x360#32 = some (regAt 0x360#32, .assign) ∧ (regAt 0x360#32).role = .off 0) ∧
    (∀ d, lookup State.reset.cfg 0x040#32 = some (d, .assign) → d.role ≠ .plain ∧ ∀ k, d.role ≠ .off k) ∧
    (∀ d, lookup State.reset.cfg 0x354#32 = some (d, .assign) → d.role ≠ .plain ∧ ∀ k, d.role ≠ .off k) := by
  refine ⟨rfl, by decide, ⟨rfl, rfl⟩, ⟨rfl, rfl⟩, ?_, ?_⟩
  · intro d h
    cases (show some (regAt 0x040#32, OpCode.assign) = some (d, .assign) from h)
    exact ⟨by decide, fun _ => nofun⟩
  · intro d h
    cases (show none = some (d, OpCode.assign) from h)

/-- From a halted state, where nothing but POR has a step. -/
theorem witness_PowerOnReset :
    wellFormedConfig stopped.cfg = true ∧ stopped.halted = true ∧ Instr.arb ≠ .por ∧ 0x354#32 ≠ stopped.cfg.statOff := by
  decide

theorem witness_FullResetSequence : wellFormedConfig tied.cfg = true ∧ tied.halted = false := by decide

theorem witness_StepKeepsTheInvariant :
    invariant pendingRaise ∧ step pendingRaise = .next (nextOf (step pendingRaise)) := ⟨tied_invariant, rfl⟩

/-- A step after which source 2 is published, and one after which nothing is armed. -/
theorem witness_PublishedPriorityIsTheMaximum :
    (invariant pendingRaise ∧ pendingRaise.cfg.arbLevel0Wins = false ∧
      step pendingRaise = .next (nextOf (step pendingRaise)) ∧ winner (nextOf (step pendingRaise)) 2) ∧
    (invariant State.reset ∧ step State.reset = .next (nextOf (step State.reset)) ∧
      ∀ i, i < (nextOf (step State.reset)).cfg.numSources → armed (nextOf (step State.reset)) i = true →
        level (nextOf (step State.reset)) i = 0#3) :=
  ⟨⟨tied_invariant, rfl, rfl, by unfold winner; decide⟩,
   ⟨⟨smoke_config_accepts, by decide, by unfold onlyBasesListed; decide, by unfold consistent; decide⟩, rfl,
    by decide⟩⟩

theorem witness_OperationsKeepConfigurationAndQueue :
    exec (.raise 2#32) pendingRaise = .next (nextOf (exec (.raise 2#32) pendingRaise)) := rfl

theorem witness_LetterIsRedundant :
    (readForm (.rdB 0x304#32) = some (.byte, .assign, 0x304#32) ∧
      readForm (.rdcB 0x304#32) = some (.byte, .clr, 0x304#32)) ∧
    (writeForm (.wrB 0x304#32 1#32) = some (.byte, .assign, 0x304#32, 1#32) ∧
      writeForm (.wrcB 0x304#32 1#32) = some (.byte, .clr, 0x304#32, 1#32)) := by decide

end Sys2Proof.Tests
end

section
/-! What no operation changes: the configuration (spec/00_scope.md R5, spec/10_state.md R13) and the transactions not yet
run (spec/20_memory.md R49). One lemma per operation of the model, from the named updates up to `exec`. -/

namespace Sys2Proof.Machine

@[simp] theorem emitHook_keeps_inputs (s : State) (h : Option HookId) (e : HookId → Event) :
    (emitHook s h e).cfg = s.cfg ∧ (emitHook s h e).inbox = s.inbox := by
  simp [emitHook_eq]

@[simp] theorem applyReadSide_keeps_inputs (s : State) (d : Descriptor) :
    (applyReadSide s d).cfg = s.cfg ∧ (applyReadSide s d).inbox = s.inbox := by
  cases h : d.rside <;> simp [applyReadSide, h]

@[simp] theorem arbitrate_keeps_inputs (s : State) :
    (arbitrate s).cfg = s.cfg ∧ (arbitrate s).inbox = s.inbox := by
  simp [arbitrate_eq]

@[simp] theorem arbitrateIfInterrupt_keeps_inputs (s : State) (d : Descriptor) :
    (arbitrateIfInterrupt s d).cfg = s.cfg ∧ (arbitrateIfInterrupt s d).inbox = s.inbox := by
  cases h : isInterruptRole d.role <;> simp [arbitrateIfInterrupt, h]

@[simp] theorem fullReset_keeps_inputs (k : ResetKind) (s : State) :
    (fullReset k s).cfg = s.cfg ∧ (fullReset k s).inbox = s.inbox := by
  cases k with
  | por => simp [fullReset_por_eq]
  | soft => simp [fullReset_soft_eq]

@[simp] theorem powerOn_keeps_inputs (s : State) :
    (powerOn s).cfg = s.cfg ∧ (powerOn s).inbox = s.inbox := by
  simp [powerOn]

/-- Every read of a register found, of a base or an alias, under each policy (R80). -/
@[simp] theorem readFound_keeps_inputs (w : Width) (l : Lane) (a : Word) (d : Descriptor) (op : OpCode) (s : State) :
    (readFound w l a d op s).cfg = s.cfg ∧ (readFound w l a d op s).inbox = s.inbox := by
  have hviolating : (violatingRead w l a d s).cfg = s.cfg ∧ (violatingRead w l a d s).inbox = s.inbox := by
    simp [violatingRead]
  have hbase : (baseRead w l a d s).cfg = s.cfg ∧ (baseRead w l a d s).inbox = s.inbox := by
    cases hp : d.policy <;> simp [baseRead, hp, permittedRead_eq, hviolating]
  have halias : (aliasRead w l a d s).cfg = s.cfg ∧ (aliasRead w l a d s).inbox = s.inbox := by
    cases hr : d.aliasRead <;> simp [aliasRead, hr, hviolating]
  cases op with
  | assign => exact hbase
  | clr | set | inv => exact halias

/-- The hook, then the soft reset or the commit (R106). -/
@[simp] theorem finishWrite_keeps_inputs (s : State) (d : Descriptor) (new : Word) :
    (finishWrite s d new).cfg = s.cfg ∧ (finishWrite s d new).inbox = s.inbox := by
  cases h : triggersReset s d new <;> simp [finishWrite, h, commitWrite]

/-- Every write to a register found: dropped when it is read-only, else performed (R100). -/
@[simp] theorem writeFound_keeps_inputs (w : Width) (l : Lane) (a : Word) (d : Descriptor) (op : OpCode) (v : Word)
    (s : State) : (writeFound w l a d op v s).cfg = s.cfg ∧ (writeFound w l a d op v s).inbox = s.inbox := by
  by_cases hp : d.policy = .ro
  · simp [writeFound, hp, droppedWrite]
  · simp [writeFound_eq hp, permittedWrite]

theorem busRead_keeps_inputs {w : Width} {a : Word} {s t : State} (h : busRead w a s = .next t) :
    t.cfg = s.cfg ∧ t.inbox = s.inbox := by
  obtain ⟨-, -, ⟨-, rfl⟩ | ⟨d, op, -, rfl⟩⟩ := busRead_next h <;> simp

theorem busWrite_keeps_inputs {w : Width} {a v : Word} {s t : State} (h : busWrite w a v s = .next t) :
    t.cfg = s.cfg ∧ t.inbox = s.inbox := by
  obtain ⟨-, -, ⟨-, rfl⟩ | ⟨d, op, -, rfl⟩⟩ := busWrite_next h <;> simp

/-- Settles O51: by cases on the operation, each from what it can do when it answers a next state. -/
theorem operationsKeepConfigurationAndQueue : Obligations.OperationsKeepConfigurationAndQueue := by
  intro i s t h
  rcases instr_forms i with ⟨w, op, a, hf⟩ | ⟨w, op, a, v, hf⟩ | ⟨id, rfl⟩ | ⟨id, rfl⟩ | ⟨o, v, m, rfl⟩ | rfl | rfl |
    ⟨k, rfl⟩
  · exact busRead_keeps_inputs (exec_of_readForm hf s ▸ h)
  · exact busWrite_keeps_inputs (exec_of_writeForm hf s ▸ h)
  · obtain ⟨-, -, ⟨-, rfl⟩ | ⟨-, rfl⟩⟩ := raise_next h <;> simp [setFlag]
  · obtain ⟨-, -, ⟨-, rfl⟩ | ⟨-, rfl⟩⟩ := clear_next h <;> simp [clearFlag]
  · obtain ⟨-, d, -, -, rfl⟩ := push_next h
    simp
  · cases h
    simp
  · obtain ⟨-, rfl⟩ := arb_next h
    simp
  · obtain ⟨-, rfl⟩ := fullreset_next h
    simp

/-- A packet that decodes to an operation is taken from the inbox and run. -/
theorem step_of_decode_ok {s : State} {p : Packet} {rest : List Packet} {i : Instr} (hin : s.inbox = p :: rest)
    (hdec : decode p = .ok i) : step s = exec i (taken s rest) := by
  simp only [step, hin, hdec]

/-- Settles O4: `taken` is the state with the rest of the inbox. -/
theorem stepRunsTheDecodedTransaction : Obligations.StepRunsTheDecodedTransaction :=
  fun _ _ _ _ hin hdec => step_of_decode_ok hin hdec

end Sys2Proof.Machine
end

section
/-! The Register File and the table: read after write (spec/10_state.md R12), and `lookup` finds exactly the views
(R15). -/

namespace Sys2Proof.Machine

/-- Settles O6: read after write over the canonical form. -/
theorem registerFileReadAfterWrite : Obligations.RegisterFileReadAfterWrite :=
  fun _ _ _ hm => ⟨writeMemory_wf hm _ _, fun _ => cell_setCell hm _ _ _, rfl⟩

/-- The view of a register an operation code names stands at the offset `o` (R15). -/
def isViewAt (d : Descriptor) (op : OpCode) (o : Word) : Prop :=
  match op with
  | .assign => o = d.base
  | .clr => d.hasAlias = true ∧ o = d.base + 0x4#32
  | .set => d.hasAlias = true ∧ o = d.base + 0x8#32
  | .inv => d.hasAlias = true ∧ o = d.base + 0xC#32

/-- Whatever `lookup` finds is a view of a listed register (R15). -/
theorem isViewAt_of_lookup {c : Config} {o : Word} {d : Descriptor} {op : OpCode}
    (h : lookup c o = some (d, op)) : d ∈ c.descTable ∧ isViewAt d op o := by
  have hfind : ∀ {p : Descriptor → Bool} {e : Descriptor}, c.descTable.find? p = some e →
      e ∈ c.descTable ∧ p e = true := fun hf => ⟨List.mem_of_find?_eq_some hf, List.find?_some hf⟩
  unfold lookup at h
  split at h
  · next hf =>
    cases h
    simpa [isViewAt] using hfind hf
  split at h
  · next hf =>
    cases h
    simpa [isViewAt] using hfind hf
  split at h
  · next hf =>
    cases h
    simpa [isViewAt] using hfind hf
  split at h
  · next hf =>
    cases h
    simpa [isViewAt] using hfind hf
  · cases h

/-- Where `lookup` finds nothing there is no view (R15). -/
theorem not_isViewAt_of_lookup_none {c : Config} {o : Word} (h : lookup c o = none) {d : Descriptor}
    (hd : d ∈ c.descTable) (op : OpCode) : ¬ isViewAt d op o := by
  intro hv
  unfold lookup at h
  split at h
  · cases h
  next hassign =>
  split at h
  · cases h
  next hclr =>
  split at h
  · cases h
  next hset =>
  split at h
  · cases h
  next hinv =>
  rw [List.find?_eq_none] at hassign hclr hset hinv
  cases op with
  | assign => exact hassign d hd (beq_iff_eq.mpr hv)
  | clr => exact hclr d hd (by simpa [isViewAt] using hv)
  | set => exact hset d hd (by simpa [isViewAt] using hv)
  | inv => exact hinv d hd (by simpa [isViewAt] using hv)

theorem mem_footprint_of_isViewAt {d : Descriptor} {op : OpCode} {o : Word} (h : isViewAt d op o) :
    o ∈ footprint d := by
  cases op with
  | assign =>
    subst h
    exact base_mem_footprint d
  | clr | set | inv =>
    obtain ⟨ha, rfl⟩ := h
    simp [footprint, ha]

/-- How far a view stands from its register's base (R15). -/
def viewShift : OpCode → Word
  | .assign => 0x0#32
  | .clr => 0x4#32
  | .set => 0x8#32
  | .inv => 0xC#32

theorem viewShift_injective : Function.Injective viewShift := by
  intro op op' h
  cases op <;> cases op' <;> simp [viewShift] at h ⊢

theorem eq_base_add_viewShift {d : Descriptor} {op : OpCode} {o : Word} (h : isViewAt d op o) :
    o = d.base + viewShift op := by
  cases op with
  | assign => simpa [isViewAt, viewShift] using h
  | clr | set | inv => exact h.2

/-- The views of one register stand apart. -/
theorem op_eq_of_isViewAt {d : Descriptor} {op op' : OpCode} {o : Word} (h : isViewAt d op o)
    (h' : isViewAt d op' o) : op = op' :=
  viewShift_injective (add_left_cancel ((eq_base_add_viewShift h).symm.trans (eq_base_add_viewShift h')))

/-- Under a well-formed table `lookup` finds every view (R15, R16 item 3). -/
theorem lookup_of_isViewAt {c : Config} (hc : wellFormedConfig c = true) {d : Descriptor} (hd : d ∈ c.descTable)
    {op : OpCode} {o : Word} (h : isViewAt d op o) : lookup c o = some (d, op) := by
  cases hl : lookup c o with
  | none => exact absurd h (not_isViewAt_of_lookup_none hl hd op)
  | some found =>
    obtain ⟨e, op'⟩ := found
    obtain ⟨he, hv⟩ := isViewAt_of_lookup hl
    obtain rfl := eq_of_footprints_meet hc he hd (mem_footprint_of_isViewAt hv) (mem_footprint_of_isViewAt h)
    rw [op_eq_of_isViewAt hv h]

/-- Settles O8: each view is found, by disjoint footprints, and what is found is a view. -/
theorem lookupFindsTheViews : Obligations.LookupFindsTheViews := by
  intro c hc
  refine ⟨fun d hd => ⟨lookup_of_isViewAt hc hd rfl, fun ha => ?_⟩, fun o d op h => ?_⟩
  · exact ⟨lookup_of_isViewAt hc hd ⟨ha, rfl⟩, lookup_of_isViewAt hc hd ⟨ha, rfl⟩, lookup_of_isViewAt hc hd ⟨ha, rfl⟩⟩
  · obtain ⟨hd, hv⟩ := isViewAt_of_lookup h
    refine ⟨hd, ?_⟩
    cases op <;> exact hv

/-- A bus transaction finds listed registers only. -/
theorem mem_of_busLookup {c : Config} {a : Word} {d : Descriptor} {op : OpCode}
    (h : busLookup c a = some (d, op)) : d ∈ c.descTable :=
  (isViewAt_of_lookup h).1

end Sys2Proof.Machine
end

section
/-! The scan of the arbiter (spec/42_arbiter.md R131) and the word it publishes (R132): the scan finds the winner of
R31, and STAT's two fields read back what was published. -/

namespace Sys2Proof.Machine

/-- The arbitration result when nothing wins (R131). -/
def noWinner : ArbResult := { any := false, vec := 0, lvl := 0#3 }

/-- The scan cut off after the first `n` sources. -/
def scanUpTo (s : State) (n : Nat) : ArbResult :=
  (List.range n).foldl (scanSource s) noWinner

theorem scan_eq_scanUpTo (s : State) : scan s = scanUpTo s s.cfg.numSources := rfl

theorem scanUpTo_zero (s : State) : scanUpTo s 0 = noWinner := rfl

theorem scanUpTo_succ (s : State) (n : Nat) : scanUpTo s (n + 1) = scanSource s (scanUpTo s n) n := by
  simp [scanUpTo, List.range_succ]

/-- A source that is not armed, or that is not above the winner found, leaves it (R131). -/
theorem scanSource_keeps {s : State} {r : ArbResult} {i : Nat} (hle : armed s i = true → level s i ≤ r.lvl)
    (h0 : s.cfg.arbLevel0Wins = false ∨ r.any = true) : scanSource s r i = r := by
  unfold scanSource
  refine if_neg fun h => ?_
  simp only [Bool.and_eq_true, Bool.or_eq_true, decide_eq_true_eq] at h
  obtain ⟨ha, hlt | ⟨hw, hany⟩⟩ := h
  · exact absurd hlt (BitVec.not_lt.mpr (hle ha))
  · rcases h0 with h0 | h0
    · simp [h0] at hw
    · simp [h0] at hany

/-- An armed source above the winner found replaces it (R131). -/
theorem scanSource_takes {s : State} {r : ArbResult} {i : Nat} (ha : armed s i = true) (hlt : r.lvl < level s i) :
    scanSource s r i = { any := true, vec := i, lvl := level s i } := by
  simp [scanSource, ha, hlt]

/-- One source leaves the winner found or becomes the winner. -/
theorem scanSource_cases (s : State) (r : ArbResult) (i : Nat) :
    scanSource s r i = r ∨ (armed s i = true ∧ scanSource s r i = { any := true, vec := i, lvl := level s i }) := by
  unfold scanSource
  split
  · next h => exact Or.inr ⟨(Bool.and_eq_true _ _ ▸ h).1, rfl⟩
  · exact Or.inl rfl

/-- With every armed source at level 0 and ARB_LEVEL0_WINS false the scan finds nothing (R131). -/
theorem scan_eq_noWinner {s : State} (hw : s.cfg.arbLevel0Wins = false)
    (h : ∀ i, i < s.cfg.numSources → armed s i = true → level s i = 0#3) : scan s = noWinner := by
  have hnone : ∀ n, n ≤ s.cfg.numSources → scanUpTo s n = noWinner := by
    intro n
    induction n with
    | zero => exact fun _ => scanUpTo_zero s
    | succ n ih =>
      intro hn
      rw [scanUpTo_succ, ih (by omega)]
      exact scanSource_keeps (fun ha => by simp [h n hn ha, noWinner]) (Or.inl hw)
  exact hnone _ le_rfl

/-- Sources below a level leave the winner found below it. -/
theorem scanUpTo_lvl_lt {s : State} {l : Level} (hl : l ≠ 0#3) {n : Nat}
    (h : ∀ j, j < n → armed s j = true → level s j < l) : (scanUpTo s n).lvl < l := by
  induction n with
  | zero =>
    change 0#3 < l
    bv_omega
  | succ n ih =>
    rw [scanUpTo_succ]
    rcases scanSource_cases s (scanUpTo s n) n with hk | ⟨ha, ht⟩
    · rw [hk]
      exact ih fun j hj => h j (by omega)
    · rw [ht]
      exact h n (by omega) ha

/-- The scan finds the winner of R31, whatever ARB_LEVEL0_WINS is (R131). -/
theorem scan_of_winner {s : State} {i : Nat} (h : winner s i) :
    scan s = { any := true, vec := i, lvl := level s i } := by
  obtain ⟨hi, ha, hl, hmax⟩ := h
  have hbelow : (scanUpTo s i).lvl < level s i := by
    refine scanUpTo_lvl_lt hl fun j hj haj => ?_
    obtain ⟨hle, hfirst⟩ := hmax j (by omega) haj
    exact BitVec.lt_of_le_ne hle fun he => absurd (hfirst he) (by omega)
  have hfrom : ∀ n, i + 1 ≤ n → n ≤ s.cfg.numSources →
      scanUpTo s n = { any := true, vec := i, lvl := level s i } := by
    intro n hn
    induction n, hn using Nat.le_induction with
    | base =>
      intro _
      rw [scanUpTo_succ, scanSource_takes ha hbelow]
    | succ n _ ih =>
      intro hN
      rw [scanUpTo_succ, ih (by omega)]
      exact scanSource_keeps (fun haj => (hmax n hN haj).1) (Or.inr rfl)
  exact hfrom _ hi le_rfl

/-- Register files with the same flags, enables and levels below N give the same scan. -/
theorem scan_eq_of_sources {s t : State} (hcfg : t.cfg = s.cfg)
    (h : ∀ i, i < s.cfg.numSources → flag t i = flag s i ∧ enable t i = enable s i ∧ level t i = level s i) :
    scan t = scan s :=
  scan_congr_sources hcfg fun i hi => by simp [armed, h i (hcfg ▸ hi)]

/-- STAT's two fields lie in the word and apart, and VEC holds every source number (R26, G2; log entry 13). -/
theorem wf_stat_fields {c : Config} (h : wellFormedConfig c = true) :
    c.statVecLsb + c.statVecW ≤ 32 ∧ c.statPriLsb + 3 ≤ 32 ∧
      (c.statVecLsb + c.statVecW ≤ c.statPriLsb ∨ c.statPriLsb + 3 ≤ c.statVecLsb) ∧
      c.numSources ≤ 2 ^ c.statVecW := by
  have := (wf_parts h).1
  simp only [parametersOk, Bool.and_eq_true, decide_eq_true_eq, Bool.or_eq_true] at this
  tauto

/-- A bit of the word STAT is given for a winner. -/
theorem statWord_getLsbD (c : Config) (i : Nat) (l : Level) (n : Nat) :
    (statWord c { any := true, vec := i, lvl := l }).getLsbD n =
      (decide (n < 32) && ((!decide (n < c.statPriLsb) && l.getLsbD (n - c.statPriLsb)) ||
        (!decide (n < c.statVecLsb) && i.testBit (n - c.statVecLsb)))) := by
  simp only [statWord, if_true, BitVec.getLsbD_or, BitVec.getLsbD_shiftLeft, BitVec.getLsbD_setWidth,
    BitVec.getLsbD_ofNat]
  by_cases hn : n < 32
  · have hpri : n - c.statPriLsb < 32 := by omega
    have hvec : n - c.statVecLsb < 32 := by omega
    simp [hn, hpri, hvec]
  · simp [hn]

/-- The PRI field of the word STAT is given for a winner is its level (R132). -/
theorem statWord_pri {c : Config} (h : wellFormedConfig c = true) {i : Nat} (hi : i < c.numSources) (l : Level) :
    (statWord c { any := true, vec := i, lvl := l } >>> c.statPriLsb).setWidth 3 = l := by
  obtain ⟨hvec, hpri, hapart, hN⟩ := wf_stat_fields h
  apply BitVec.eq_of_getLsbD_eq
  intro b hb
  have hlt : c.statPriLsb + b < 32 := by omega
  have hvecBit :
      (!decide (c.statPriLsb + b < c.statVecLsb) && i.testBit (c.statPriLsb + b - c.statVecLsb)) = false := by
    rcases hapart with hbelow | habove
    · have hsmall : i < 2 ^ (c.statPriLsb + b - c.statVecLsb) :=
        lt_of_lt_of_le hi (hN.trans (Nat.pow_le_pow_right (by omega) (by omega)))
      simp [Nat.testBit_lt_two_pow hsmall]
    · simp [show c.statPriLsb + b < c.statVecLsb by omega]
  rw [BitVec.getLsbD_setWidth, BitVec.getLsbD_ushiftRight, statWord_getLsbD, hvecBit]
  simp [hb, hlt]

/-- The VEC field of the word STAT is given for a winner is its index (R132). -/
theorem statWord_vec {c : Config} (h : wellFormedConfig c = true) {i : Nat} (hi : i < c.numSources) (l : Level) :
    (statWord c { any := true, vec := i, lvl := l } >>> c.statVecLsb).toNat % 2 ^ c.statVecW = i := by
  obtain ⟨hvec, hpri, hapart, hN⟩ := wf_stat_fields h
  apply Nat.eq_of_testBit_eq
  intro b
  rw [Nat.testBit_mod_two_pow, BitVec.testBit_toNat, BitVec.getLsbD_ushiftRight, statWord_getLsbD]
  by_cases hb : b < c.statVecW
  · have hlt : c.statVecLsb + b < 32 := by omega
    have hpriBit :
        (!decide (c.statVecLsb + b < c.statPriLsb) && l.getLsbD (c.statVecLsb + b - c.statPriLsb)) = false := by
      rcases hapart with hbelow | habove
      · simp [show c.statVecLsb + b < c.statPriLsb by omega]
      · simp [BitVec.getLsbD_of_ge l _ (show 3 ≤ c.statVecLsb + b - c.statPriLsb by omega)]
    simp [hb, hlt, hpriBit]
  · have hhigh : i.testBit b = false :=
      Nat.testBit_lt_two_pow (lt_of_lt_of_le hi (hN.trans (Nat.pow_le_pow_right (by omega) (by omega))))
    simp [hb, hhigh]

/-- A state whose STAT and latched level follow its registers has published what R31 says. -/
theorem published_of_consistent {s : State} (hc : wellFormedConfig s.cfg = true)
    (hw : s.cfg.arbLevel0Wins = false) (h : consistent s) : published s := by
  obtain ⟨hstat, hipl⟩ := h
  refine ⟨fun hnone => ?_, fun i hwin => ?_⟩
  · rw [scan_eq_noWinner hw hnone] at hstat hipl
    have hstat0 : cell s s.cfg.statOff = 0#32 := by simpa [statWord, noWinner] using hstat
    exact ⟨by simp [statPri, hstat0], by simp [statVec, hstat0], by simpa [signalled, noWinner] using hipl⟩
  · rw [scan_of_winner hwin] at hstat hipl
    refine ⟨?_, ?_, by simpa [signalled] using hipl⟩
    · rw [statPri, hstat, statWord_pri hc hwin.1]
    · rw [statVec, hstat, statWord_vec hc hwin.1]

end Sys2Proof.Machine
end

section
/-! The invariant of the block (spec/10_state.md R11, R16, R31): an arbitration establishes it, a reset establishes it,
and every other change of a cell keeps it. -/

namespace Sys2Proof.Machine

/-- The invariant without the published state: what an operation keeps up to its arbitration. -/
def registersWf (s : State) : Prop :=
  wellFormedConfig s.cfg = true ∧ memoryWf s.mem ∧ onlyBasesListed s

theorem registersWf_of_invariant {s : State} (h : invariant s) : registersWf s :=
  ⟨h.1, h.2.1, h.2.2.1⟩

theorem invariant_iff (s : State) : invariant s ↔ registersWf s ∧ consistent s := by
  simp [invariant, registersWf, and_assoc]

theorem registersWf_congr {s t : State} (hcfg : t.cfg = s.cfg) (hmem : t.mem = s.mem) (h : registersWf s) :
    registersWf t := by
  simpa only [registersWf, onlyBasesListed, hcfg, hmem] using h

/-- The invariant speaks of the configuration, the cells and the latched level only. -/
theorem invariant_congr {s t : State} (hcfg : t.cfg = s.cfg) (hmem : t.mem = s.mem) (hipl : t.coreIpl = s.coreIpl)
    (h : invariant s) : invariant t := by
  obtain ⟨hregs, hstat, hlevel⟩ := (invariant_iff s).mp h
  refine (invariant_iff t).mpr ⟨registersWf_congr hcfg hmem hregs, ?_, ?_⟩
  · rw [cell_congr hmem, scan_congr hcfg hmem, hcfg, hstat]
  · rw [hipl, scan_congr hcfg hmem, hlevel]

/-- A write to a base cell keeps the form of the Register File. -/
theorem registersWf_writeMemory {s t : State} {d : Descriptor} {v : Word} (h : registersWf s) (hd : d ∈ s.cfg.descTable)
    (hcfg : t.cfg = s.cfg) (hmem : t.mem = writeMemory s.mem d.base.toNat v) : registersWf t := by
  obtain ⟨hc, hwf, hbases⟩ := h
  refine ⟨hcfg ▸ hc, hmem ▸ writeMemory_wf hwf _ _, fun p hp => ?_⟩
  rw [hcfg]
  rcases mem_writeMemory (hmem ▸ hp) with hp | hp
  · exact hbases p hp
  · exact ⟨d, hd, hp.symm⟩

theorem registersWf_setCell {s : State} {d : Descriptor} (h : registersWf s) (hd : d ∈ s.cfg.descTable) (v : Word) :
    registersWf (setCell s d.base v) :=
  registersWf_writeMemory h hd rfl rfl

/-- Offsets the first two steps of a reset list: bases of the pattern. -/
theorem mem_patternMemory {c : Config} {p : Nat × Word} (h : p ∈ patternMemory c) :
    ∃ q ∈ c.resetPattern, q.1.toNat = p.1 := by
  have hlisted : ∀ (l : List (Word × Word)) (m : Memory), p ∈ l.foldl (fun m q => writeMemory m q.1.toNat q.2) m →
      p ∈ m ∨ ∃ q ∈ l, q.1.toNat = p.1 := by
    intro l
    induction l with
    | nil => exact fun m hp => Or.inl hp
    | cons q l ih =>
      intro m hp
      rcases ih _ hp with hp | ⟨r, hr, hrp⟩
      · rcases mem_writeMemory hp with hp | hp
        · exact Or.inl hp
        · exact Or.inr ⟨q, by simp, hp.symm⟩
      · exact Or.inr ⟨r, by simp [hr], hrp⟩
  exact (hlisted _ _ h).resolve_left (by simp)

/-- The cleared and pattern-initialized block lists base cells only (R11, R221). -/
theorem registersWf_clearForReset {s : State} (hc : wellFormedConfig s.cfg = true) : registersWf (clearForReset s) := by
  refine ⟨hc, patternMemory_wf _, fun p hp => ?_⟩
  have hpattern := (wf_parts hc).2.2.2.2
  simp only [resetPatternOk, Bool.and_eq_true, List.all_eq_true, List.any_eq_true, beq_iff_eq] at hpattern
  obtain ⟨q, hq, hqp⟩ := mem_patternMemory hp
  obtain ⟨d, hd, hb⟩ := hpattern.1 q hq
  exact ⟨d, hd, hb ▸ hqp⟩

/-! ### What re-establishes or keeps the invariant -/

/-- An arbitration makes STAT and the latched level follow the registers (R31, R134). -/
theorem arbitrate_invariant {s : State} (h : registersWf s) : invariant (arbitrate s) := by
  have ⟨hc, hwf, _⟩ := h
  obtain ⟨d, hd, -, hb⟩ := exists_stat hc
  have hcfg : (arbitrate s).cfg = s.cfg := (arbitrate_keeps_inputs s).1
  have hipl : (arbitrate s).coreIpl = signalled (scan s) := by rw [arbitrate_eq]
  refine (invariant_iff _).mpr ⟨registersWf_writeMemory h hd hcfg (by rw [arbitrate_eq, hb]), ?_, ?_⟩
  · rw [hcfg, arbitrate_cell hwf, if_pos rfl, scan_arbitrate hc hwf]
  · rw [hipl, scan_arbitrate hc hwf]

/-- A cell of a register that is neither an interrupt register nor STAT can be written without an arbitration. -/
theorem setCell_invariant {s : State} {d : Descriptor} (h : invariant s) (hd : d ∈ s.cfg.descTable)
    (hq : isInterruptRole d.role = false) (hstat : d.role ≠ .stat) (v : Word) : invariant (setCell s d.base v) := by
  obtain ⟨hregs, hcell, hipl⟩ := (invariant_iff s).mp h
  have ⟨hc, hwf, _⟩ := hregs
  have hcells : ∀ e ∈ s.cfg.descTable, isInterruptRole e.role = true →
      cell (setCell s d.base v) e.base = cell s e.base := by
    intro e he hqe
    rw [cell_setCell hwf, if_neg]
    intro hb
    rw [eq_of_base_eq hc he hd hb, hq] at hqe
    cases hqe
  have hscan : scan (setCell s d.base v) = scan s := scan_eq_of_sources rfl (scan_eq_of_cells hc rfl hcells)
  refine (invariant_iff _).mpr ⟨registersWf_setCell hregs hd v, ?_, ?_⟩
  · rw [hscan, cell_setCell hwf, setCell_cfg, if_neg (base_ne_statOff hc hd hstat).symm, hcell]
  · rw [hscan, setCell_coreIpl, hipl]

/-- Either reset ends in a state that meets the invariant, whatever the cells were (R221). -/
theorem fullReset_invariant (k : ResetKind) {s : State} (hc : wellFormedConfig s.cfg = true) :
    invariant (fullReset k s) := by
  have hregs := registersWf_clearForReset hc
  cases k with
  | por =>
    exact invariant_congr rfl rfl rfl
      (arbitrate_invariant (s := emit (clearForReset s) .periphReset) (registersWf_congr rfl rfl hregs))
  | soft => exact arbitrate_invariant (registersWf_congr rfl rfl hregs)

theorem powerOn_invariant {s : State} (hc : wellFormedConfig s.cfg = true) : invariant (powerOn s) :=
  fullReset_invariant .por hc

theorem openTransaction_invariant {s : State} (h : invariant s) : invariant (openTransaction s) :=
  invariant_congr rfl rfl rfl h

theorem taken_invariant {s : State} (h : invariant s) (rest : List Packet) : invariant (taken s rest) :=
  invariant_congr rfl rfl rfl h

theorem raiseFatal_invariant {s : State} (h : invariant s) (a : Word) (dir : Dir) : invariant (raiseFatal s a dir) :=
  invariant_congr rfl rfl rfl h

/-- A read side target is the base of a PLAIN register (R16 item 6), which no arbitration reads. -/
theorem applyReadSide_invariant {s : State} {d : Descriptor} (h : invariant s) (hd : d ∈ s.cfg.descTable) :
    invariant (applyReadSide s d) := by
  have hhooks := (wf_descriptor h.1 hd).2.2.1
  rcases hside : d.rside with _ | ⟨target, mask⟩
  · simpa [applyReadSide, hside] using h
  · simp only [hooksOk, hside, Bool.and_eq_true, List.any_eq_true, beq_iff_eq] at hhooks
    obtain ⟨e, he, rfl, hplain⟩ := hhooks.1.1
    simp only [applyReadSide, hside]
    exact setCell_invariant h he (by simp [hplain, isInterruptRole]) (by simp [hplain]) _

/-- A read of a register found keeps the invariant (R80). -/
theorem readFound_invariant {s : State} {d : Descriptor} (h : invariant s) (hd : d ∈ s.cfg.descTable) (w : Width)
    (l : Lane) (a : Word) (op : OpCode) : invariant (readFound w l a d op s) := by
  have hviolating : invariant (violatingRead w l a d s) := invariant_congr rfl rfl rfl h
  have hpermitted : invariant (permittedRead w l d s) := by
    rw [permittedRead_eq]
    exact invariant_congr rfl rfl rfl (applyReadSide_invariant h hd)
  have hbase : invariant (baseRead w l a d s) := by
    cases hp : d.policy <;> simpa only [baseRead, hp]
  have halias : invariant (aliasRead w l a d s) := by
    cases hr : d.aliasRead with
    | disallowed => simpa only [aliasRead, hr]
    | base | zero =>
      simp only [aliasRead, hr]
      exact invariant_congr rfl rfl rfl h
  cases op with
  | assign => exact hbase
  | clr | set | inv => exact halias

/-- Stage 4f of a write keeps the invariant: it commits to a cell the scan does not read, or arbitrates, or resets
(R106). STAT is read-only, so no write reaches it. -/
theorem finishWrite_invariant {s : State} {d : Descriptor} (h : invariant s) (hd : d ∈ s.cfg.descTable)
    (hstat : d.role ≠ .stat) (new : Word) : invariant (finishWrite s d new) := by
  by_cases hreset : resetWrite s d new
  · rw [finishWrite_reset hreset]
    exact fullReset_invariant .soft h.1
  cases hq : isInterruptRole d.role with
  | false =>
    rw [finishWrite_quiet hq hreset]
    exact invariant_congr rfl rfl rfl (setCell_invariant h hd hq hstat new)
  | true =>
    obtain ⟨-, -, hhook, -⟩ := interrupt_register h.1 hd hq
    rw [finishWrite_interrupt hq hhook]
    exact arbitrate_invariant (registersWf_writeMemory (registersWf_of_invariant h) hd rfl rfl)

/-- The policy of STAT is read-only (R17). -/
theorem role_ne_stat_of_writable {c : Config} (hc : wellFormedConfig c = true) {d : Descriptor}
    (hd : d ∈ c.descTable) (hp : d.policy ≠ .ro) : d.role ≠ .stat := by
  intro hr
  have hok := (wf_descriptor hc hd).2.2.2
  simp only [roleOk, hr, Bool.and_eq_true, beq_iff_eq] at hok
  exact hp hok.1.1.2

/-- A write to a register found keeps the invariant (R100). -/
theorem writeFound_invariant {s : State} {d : Descriptor} (h : invariant s) (hd : d ∈ s.cfg.descTable) (w : Width)
    (l : Lane) (a : Word) (op : OpCode) (v : Word) : invariant (writeFound w l a d op v s) := by
  by_cases hp : d.policy = .ro
  · simp only [writeFound, hp]
    exact invariant_congr rfl rfl rfl h
  · rw [writeFound_eq hp]
    exact invariant_congr rfl rfl rfl (finishWrite_invariant h hd (role_ne_stat_of_writable h.1 hd hp) _)

theorem busRead_invariant {w : Width} {a : Word} {s t : State} (h : invariant s) (hrun : busRead w a s = .next t) :
    invariant t := by
  obtain ⟨-, -, ⟨-, rfl⟩ | ⟨d, op, hl, rfl⟩⟩ := busRead_next hrun
  · exact raiseFatal_invariant (openTransaction_invariant h) _ _
  · exact readFound_invariant (openTransaction_invariant h) (mem_of_busLookup hl) _ _ _ _

theorem busWrite_invariant {w : Width} {a v : Word} {s t : State} (h : invariant s)
    (hrun : busWrite w a v s = .next t) : invariant t := by
  obtain ⟨-, -, ⟨-, rfl⟩ | ⟨d, op, hl, rfl⟩⟩ := busWrite_next hrun
  · exact raiseFatal_invariant (openTransaction_invariant h) _ _
  · exact writeFound_invariant (openTransaction_invariant h) (mem_of_busLookup hl) _ _ _ _ _

/-- Writing a flag bank and arbitrating re-establishes the invariant, as RAISE and CLEAR do (R135, R136). -/
theorem arbitrate_flagBank_invariant {s : State} {i : Nat} (h : invariant s) (hi : i < s.cfg.numSources) (v : Word) :
    invariant (arbitrate (setCell s (ifsOffset s.cfg (i / 32)) v)) := by
  obtain ⟨d, hd, -, hb⟩ := exists_ifs h.1 hi
  exact arbitrate_invariant (hb ▸ registersWf_setCell (registersWf_of_invariant h) hd v)

/-- A PLAIN or OFF register is no interrupt register and not STAT (R17, R171). -/
theorem quiet_of_pushable {r : Role} (h : pushable r = true) : isInterruptRole r = false ∧ r ≠ .stat := by
  cases r with
  | plain | off k => exact ⟨rfl, nofun⟩
  | ifs | iec | ipc | stat | key | rswrst => cases h

/-- A push writes the base cell of a PLAIN or OFF register (R171). -/
theorem push_invariant {s : State} {o v : Word} {d : Descriptor} (h : invariant s)
    (hl : lookup s.cfg o = some (d, .assign)) (hp : pushable d.role = true) : invariant (setCell s o v) := by
  obtain ⟨hd, rfl⟩ := isViewAt_of_lookup hl
  obtain ⟨hq, hstat⟩ := quiet_of_pushable hp
  exact setCell_invariant h hd hq hstat v

/-- Every operation keeps the invariant. -/
theorem exec_invariant {i : Instr} {s t : State} (h : invariant s) (hrun : exec i s = .next t) : invariant t := by
  have hopen := openTransaction_invariant h
  rcases instr_forms i with ⟨w, op, a, hf⟩ | ⟨w, op, a, v, hf⟩ | ⟨id, rfl⟩ | ⟨id, rfl⟩ | ⟨o, v, m, rfl⟩ | rfl | rfl |
    ⟨k, rfl⟩
  · exact busRead_invariant h (exec_of_readForm hf s ▸ hrun)
  · exact busWrite_invariant h (exec_of_writeForm hf s ▸ hrun)
  · obtain ⟨-, hid, ⟨-, rfl⟩ | ⟨-, rfl⟩⟩ := raise_next hrun
    · exact hopen
    · exact arbitrate_flagBank_invariant hopen hid _
  · obtain ⟨-, hid, ⟨-, rfl⟩ | ⟨-, rfl⟩⟩ := clear_next hrun
    · exact hopen
    · exact arbitrate_flagBank_invariant hopen hid _
  · obtain ⟨-, d, hl, hp, rfl⟩ := push_next hrun
    exact push_invariant hopen hl hp
  · cases hrun
    exact powerOn_invariant h.1
  · obtain ⟨-, rfl⟩ := arb_next hrun
    exact arbitrate_invariant (registersWf_of_invariant hopen)
  · obtain ⟨-, rfl⟩ := fullreset_next hrun
    exact fullReset_invariant k h.1

/-- What a step can do when it answers a next state: wait while nothing was received, or run the operation received
first. -/
theorem step_next {s t : State} (h : step s = .next t) :
    (s.inbox = [] ∧ s.halted = false ∧ t = openTransaction s) ∨
    ∃ p rest i, s.inbox = p :: rest ∧ decode p = .ok i ∧ exec i (taken s rest) = .next t := by
  unfold step at h
  split at h
  · next hin =>
    unfold idle at h
    split at h
    · cases h
    · next hr =>
      cases h
      exact Or.inl ⟨hin, Bool.eq_false_iff.mpr hr, rfl⟩
  next p rest hin =>
  split at h
  · next i hdec => exact Or.inr ⟨p, rest, i, hin, hdec, h⟩
  · next e _ =>
    unfold rejectPacket at h
    split at h
    · cases h
    · cases e <;> cases h

theorem step_cfg {s t : State} (h : step s = .next t) : t.cfg = s.cfg := by
  rcases step_next h with ⟨-, -, rfl⟩ | ⟨p, rest, i, -, -, hi⟩
  · rfl
  · exact (operationsKeepConfigurationAndQueue i _ t hi).1

/-- Settles O49: an idle step changes only the outputs, and every operation keeps the invariant. -/
theorem stepKeepsTheInvariant : Obligations.StepKeepsTheInvariant := by
  intro s t h hstep
  rcases step_next hstep with ⟨-, -, rfl⟩ | ⟨p, rest, i, -, -, hi⟩
  · exact openTransaction_invariant h
  · exact exec_invariant (taken_invariant h rest) hi

/-- Settles O50: the step keeps the invariant, and what a consistent state publishes is R31's. -/
theorem publishedPriorityIsTheMaximum : Obligations.PublishedPriorityIsTheMaximum := by
  intro s t h hw hstep
  obtain ⟨hregs, hcons⟩ := (invariant_iff t).mp (stepKeepsTheInvariant s t h hstep)
  exact published_of_consistent hregs.1 (step_cfg hstep ▸ hw) hcons

/-- Settles O47: under REFCFG the pattern arms nothing, so the arbitration that ends the reset publishes 0 and signals
nothing. -/
theorem resetStateIsThePowerOnState : Obligations.ResetStateIsThePowerOnState := by
  have hscan : scan (clearForReset { openTransaction State.reset with halted := false }) = noWinner := by decide
  refine ⟨_, rfl, ?_⟩
  simp only [powerOn, fullReset_por_eq, hscan]
  decide

/-- Settles O48: the reset state is what POR leaves, and POR establishes the invariant under a well-formed
configuration. -/
theorem resetMeetsTheInvariant : Obligations.ResetMeetsTheInvariant := by
  have hc : wellFormedConfig State.reset.cfg = true := by decide
  obtain ⟨t, hpor, hmem, -, hipl, -, hcfg, -⟩ := resetStateIsThePowerOnState
  cases hpor
  exact invariant_congr hcfg.symm hmem.symm hipl.symm (powerOn_invariant hc)

end Sys2Proof.Machine
end

section
/-! A read and the unlock state (spec/10_state.md R18), and what never halts the block (R19, spec/60_exceptions.md
R186). -/

namespace Sys2Proof.Machine

theorem permittedRead_unlock (w : Width) (l : Lane) (d : Descriptor) (s : State) (u : Unlock) :
    permittedRead w l d { s with unlock := u } = { permittedRead w l d s with unlock := u } := by
  simp only [permittedRead_eq]
  rcases hside : d.rside with _ | ⟨target, mask⟩ <;> simp only [applyReadSide, hside] <;> rfl

/-- A read of a register found neither reads nor writes the unlock state (R18, R80). -/
theorem readFound_unlock (w : Width) (l : Lane) (a : Word) (d : Descriptor) (op : OpCode) (s : State) (u : Unlock) :
    readFound w l a d op { s with unlock := u } = { readFound w l a d op s with unlock := u } := by
  have hbase : baseRead w l a d { s with unlock := u } = { baseRead w l a d s with unlock := u } := by
    cases hp : d.policy with
    | wo => simp only [baseRead, hp]; rfl
    | rw | ro | wse => simp only [baseRead, hp, permittedRead_unlock]
  have halias : aliasRead w l a d { s with unlock := u } = { aliasRead w l a d s with unlock := u } := by
    cases hr : d.aliasRead <;> simp only [aliasRead, hr] <;> rfl
  cases op with
  | assign => exact hbase
  | clr | set | inv => exact halias

/-- A running, contained bus read of an unmapped word is the fatal error (R186). -/
theorem busRead_unmapped {w : Width} {a : Word} {s : State} (hr : s.halted = false)
    (hc : contained w (laneOf s.cfg a) = true) (hl : busLookup s.cfg a = none) :
    busRead w a s = .next (raiseFatal (openTransaction s) a .read) := by
  simp [busRead, whenRunning_running hr, hc, hl]

/-- Settles O14: neither the checks of a read nor what it runs look at the unlock state. -/
theorem readsDoNotShowTheUnlockState : Obligations.ReadsDoNotShowTheUnlockState := by
  intro i s t u w op a hf hrun
  rw [exec_of_readForm hf] at hrun ⊢
  obtain ⟨hr, hcont, ⟨hl, rfl⟩ | ⟨d, op', hl, rfl⟩⟩ := busRead_next hrun
  · exact busRead_unmapped (s := { s with unlock := u }) hr hcont hl
  · rw [busRead_found (s := { s with unlock := u }) hr hcont hl]
    exact congrArg _ (readFound_unlock w _ a d op' (openTransaction s) u)

@[simp] theorem emitHook_halted (s : State) (h : Option HookId) (e : HookId → Event) :
    (emitHook s h e).halted = s.halted := by
  simp [emitHook_eq]

@[simp] theorem applyReadSide_halted (s : State) (d : Descriptor) : (applyReadSide s d).halted = s.halted := by
  cases h : d.rside <;> simp [applyReadSide, h]

@[simp] theorem arbitrate_halted (s : State) : (arbitrate s).halted = s.halted := by
  simp [arbitrate_eq]

@[simp] theorem fullReset_halted (k : ResetKind) (s : State) : (fullReset k s).halted = s.halted := by
  cases k with
  | por => simp [fullReset_por_eq]
  | soft => simp [fullReset_soft_eq]

@[simp] theorem readFound_halted (w : Width) (l : Lane) (a : Word) (d : Descriptor) (op : OpCode) (s : State) :
    (readFound w l a d op s).halted = s.halted := by
  have hviolating : (violatingRead w l a d s).halted = s.halted := by simp [violatingRead]
  have hbase : (baseRead w l a d s).halted = s.halted := by
    cases hp : d.policy <;> simp [baseRead, hp, permittedRead_eq, hviolating]
  have halias : (aliasRead w l a d s).halted = s.halted := by
    cases hr : d.aliasRead <;> simp [aliasRead, hr, hviolating]
  cases op with
  | assign => exact hbase
  | clr | set | inv => exact halias

@[simp] theorem finishWrite_halted (s : State) (d : Descriptor) (new : Word) :
    (finishWrite s d new).halted = s.halted := by
  have hcommit : ∀ s, (commitWrite s d new).halted = s.halted := by
    intro s
    cases hq : isInterruptRole d.role <;> simp [commitWrite, arbitrateIfInterrupt, hq]
  cases h : triggersReset s d new <;> simp [finishWrite, h, hcommit]

@[simp] theorem writeFound_halted (w : Width) (l : Lane) (a : Word) (d : Descriptor) (op : OpCode) (v : Word)
    (s : State) : (writeFound w l a d op v s).halted = s.halted := by
  by_cases hp : d.policy = .ro
  · simp [writeFound, hp, droppedWrite]
  · simp [writeFound_eq hp, permittedWrite]

/-- A bus read that ends halted addressed an unmapped word (R186). -/
theorem busLookup_none_of_busRead_halts {w : Width} {a : Word} {s t : State} (h : busRead w a s = .next t)
    (ht : t.halted = true) : busLookup s.cfg a = none := by
  obtain ⟨hr, -, ⟨hl, -⟩ | ⟨d, op, -, rfl⟩⟩ := busRead_next h
  · exact hl
  · simp [hr] at ht

/-- A bus write that ends halted addressed an unmapped word (R186). -/
theorem busLookup_none_of_busWrite_halts {w : Width} {a v : Word} {s t : State} (h : busWrite w a v s = .next t)
    (ht : t.halted = true) : busLookup s.cfg a = none := by
  obtain ⟨hr, -, ⟨hl, -⟩ | ⟨d, op, -, rfl⟩⟩ := busWrite_next h
  · exact hl
  · simp [hr] at ht

/-- Settles O27: a bus access to a mapped word and every operation of the other ports end running. -/
theorem onlyUnmappedAccessHalts : Obligations.OnlyUnmappedAccessHalts := by
  intro i s t hrun ht
  rcases instr_forms i with ⟨w, op, a, hf⟩ | ⟨w, op, a, v, hf⟩ | ⟨id, rfl⟩ | ⟨id, rfl⟩ | ⟨o, v, m, rfl⟩ | rfl | rfl |
    ⟨k, rfl⟩
  · exact ⟨w, op, a, busLookup_none_of_busRead_halts (exec_of_readForm hf s ▸ hrun) ht, Or.inl hf⟩
  · exact ⟨w, op, a, busLookup_none_of_busWrite_halts (exec_of_writeForm hf s ▸ hrun) ht, Or.inr ⟨v, hf⟩⟩
  · obtain ⟨hr, -, ⟨-, rfl⟩ | ⟨-, rfl⟩⟩ := raise_next hrun <;> simp [setFlag, hr] at ht
  · obtain ⟨hr, -, ⟨-, rfl⟩ | ⟨-, rfl⟩⟩ := clear_next hrun <;> simp [clearFlag, hr] at ht
  · obtain ⟨hr, d, -, -, rfl⟩ := push_next hrun
    simp [hr] at ht
  · cases hrun
    simp [powerOn] at ht
  · obtain ⟨hr, rfl⟩ := arb_next hrun
    simp [hr] at ht
  · obtain ⟨hr, rfl⟩ := fullreset_next hrun
    simp [hr] at ht

end Sys2Proof.Machine
end

section
/-! The bits of a source (spec/10_state.md R22 to R25), and which of them an arbitration reads (spec/42_arbiter.md R131,
R139). -/

namespace Sys2Proof.Machine

/-- The offset lists have one entry per bank and per priority register (R5). -/
theorem wf_offset_lengths {c : Config} (h : wellFormedConfig c = true) :
    c.ifsOff.length = numBanks c ∧ c.iecOff.length = numBanks c ∧ c.ipcOff.length = numIpcs c := by
  have := (wf_parts h).1
  simp only [parametersOk, Bool.and_eq_true, beq_iff_eq] at this
  tauto

/-- A flag bank stands at its listed offset (R17). -/
theorem base_of_ifs {c : Config} (h : wellFormedConfig c = true) {d : Descriptor} (hd : d ∈ c.descTable) {k : Nat}
    (hr : d.role = .ifs k) : k < numBanks c ∧ d.base = ifsOffset c k := by
  have hok := (wf_descriptor h hd).2.2.2
  simp only [roleOk, hr, Bool.and_eq_true, decide_eq_true_eq, beq_iff_eq] at hok
  exact hok.1

/-- An enable bank stands at its listed offset (R17). -/
theorem base_of_iec {c : Config} (h : wellFormedConfig c = true) {d : Descriptor} (hd : d ∈ c.descTable) {k : Nat}
    (hr : d.role = .iec k) : k < numBanks c ∧ d.base = iecOffset c k := by
  have hok := (wf_descriptor h hd).2.2.2
  simp only [roleOk, hr, Bool.and_eq_true, decide_eq_true_eq, beq_iff_eq] at hok
  exact hok.1

/-- A priority register stands at its listed offset (R17). -/
theorem base_of_ipc {c : Config} (h : wellFormedConfig c = true) {d : Descriptor} (hd : d ∈ c.descTable) {k : Nat}
    (hr : d.role = .ipc k) : k < numIpcs c ∧ d.base = ipcOffset c k := by
  have hok := (wf_descriptor h hd).2.2.2
  simp only [roleOk, hr, Bool.and_eq_true, decide_eq_true_eq, beq_iff_eq] at hok
  exact hok.1

/-- A level bit, as a bit of the source's priority register (R24, R25). -/
theorem level_getLsbD_cell {s : State} (hc : wellFormedConfig s.cfg = true) (i : Nat) {b : Nat} (hb : b < 3) :
    (level s i).getLsbD b = (cell s (ipcOffset s.cfg (i / 4))).getLsbD (8 * (i % 4) + s.cfg.iplLsb + b) := by
  obtain ⟨hipl, -, -⟩ := wf_priority_fields hc
  have hbyte : s.cfg.iplLsb + b < 8 := by omega
  rw [level_getLsbD, pfield_getLsbD]
  simp [hb, hbyte, Nat.add_assoc]

/-- A sub-priority bit, as a bit of the source's priority register (R24, R25). -/
theorem subprio_getLsbD_cell {s : State} (hc : wellFormedConfig s.cfg = true) (i : Nat) {b : Nat} (hb : b < 2) :
    (subprio s i).getLsbD b = (cell s (ipcOffset s.cfg (i / 4))).getLsbD (8 * (i % 4) + s.cfg.islLsb + b) := by
  obtain ⟨-, hisl, -⟩ := wf_priority_fields hc
  have hbyte : s.cfg.islLsb + b < 8 := by omega
  rw [subprio_getLsbD, pfield_getLsbD]
  simp [hb, hbyte, Nat.add_assoc]

/-- Settles O53: each accessor is its bits of the register its role puts at the accessor's offset. -/
theorem sourceAccessorsReadTheirBits : Obligations.SourceAccessorsReadTheirBits := by
  intro s hc
  obtain ⟨hifs, hiec, hipc⟩ := wf_offset_lengths hc
  refine ⟨fun d hd => ⟨fun k j hr hj _ => ?_, fun k j hr hj _ => ?_, fun k j hr hj _ => ?_⟩, fun i hi => ?_⟩
  · obtain ⟨hk, hb⟩ := base_of_ifs hc hd hr
    have hdiv : (32 * k + j) / 32 = k := by omega
    have hmod : (32 * k + j) % 32 = j := by omega
    exact ⟨by simp [hb, ifsOffset, hifs, hk], by rw [flag, hdiv, hmod, hb]⟩
  · obtain ⟨hk, hb⟩ := base_of_iec hc hd hr
    have hdiv : (32 * k + j) / 32 = k := by omega
    have hmod : (32 * k + j) % 32 = j := by omega
    exact ⟨by simp [hb, iecOffset, hiec, hk], by rw [enable, hdiv, hmod, hb]⟩
  · obtain ⟨hk, hb⟩ := base_of_ipc hc hd hr
    have hdiv : (4 * k + j) / 4 = k := by omega
    have hmod : (4 * k + j) % 4 = j := by omega
    refine ⟨by simp [hb, ipcOffset, hipc, hk], ?_, fun b hb3 => ?_, fun b hb2 => ?_⟩
    · rw [pfield, hdiv, hmod, hb]
      rfl
    · rw [level_getLsbD_cell hc _ hb3, hdiv, hmod, hb]
    · rw [subprio_getLsbD_cell hc _ hb2, hdiv, hmod, hb]
  · obtain ⟨d, hd, hr, -⟩ := exists_ifs hc hi
    obtain ⟨e, he, hr', -⟩ := exists_iec hc hi
    obtain ⟨f, hf, hr'', -⟩ := exists_ipc hc hi
    exact ⟨⟨d, hd, hr⟩, ⟨e, he, hr'⟩, ⟨f, hf, hr''⟩, rfl, rfl⟩

/-- The second register file agrees with the first on every bit an arbitration reads (R22 to R25, R131). -/
def sameScannedBits (s t : State) : Prop :=
  ∀ d ∈ s.cfg.descTable, ∀ n, n < 32 → scannedBit s.cfg d n = true →
    (cell t d.base).getLsbD n = (cell s d.base).getLsbD n

/-- The bits named by register and position are all of a source's flag, enable and level. -/
theorem source_eq_of_sameScannedBits {s t : State} (hc : wellFormedConfig s.cfg = true) (hcfg : t.cfg = s.cfg)
    (hbits : sameScannedBits s t) {i : Nat} (hi : i < s.cfg.numSources) :
    flag t i = flag s i ∧ enable t i = enable s i ∧ level t i = level s i := by
  obtain ⟨d, hd, hr, hb⟩ := exists_ifs hc hi
  obtain ⟨e, he, hr', hb'⟩ := exists_iec hc hi
  obtain ⟨f, hf, hr'', hb''⟩ := exists_ipc hc hi
  obtain ⟨hipl, -, -⟩ := wf_priority_fields hc
  refine ⟨?_, ?_, BitVec.eq_of_getLsbD_eq fun b hb3 => ?_⟩
  · have hscanned : scannedBit s.cfg d (i % 32) = true := by
      simp only [scannedBit, hr, decide_eq_true_eq]
      omega
    rw [flag, flag, hcfg, ← hb]
    exact hbits d hd _ (by omega) hscanned
  · have hscanned : scannedBit s.cfg e (i % 32) = true := by
      simp only [scannedBit, hr', decide_eq_true_eq]
      omega
    rw [enable, enable, hcfg, ← hb']
    exact hbits e he _ (by omega) hscanned
  · have hscanned : scannedBit s.cfg f (8 * (i % 4) + s.cfg.iplLsb + b) = true := by
      simp only [scannedBit, hr'', decide_eq_true_eq]
      omega
    rw [level_getLsbD_cell (hcfg ▸ hc) i hb3, level_getLsbD_cell hc i hb3, hcfg, ← hb'']
    exact hbits f hf _ (by omega) hscanned

/-- An executed ARB leaves in STAT and the latched level what the scan of the cells says (R132, R133). -/
theorem arb_publishes {s t : State} (hm : memoryWf s.mem) (h : exec .arb s = .next t) :
    cell t s.cfg.statOff = statWord s.cfg (scan s) ∧ t.coreIpl = signalled (scan s) := by
  obtain ⟨-, rfl⟩ := arb_next h
  have hscan : scan (openTransaction s) = scan s := scan_congr rfl rfl
  refine ⟨?_, ?_⟩
  · rw [arbitrate_cell (s := openTransaction s) hm, openTransaction_cfg, if_pos rfl, hscan]
  · rw [arbitrate_eq, hscan]

/-- A word with the two bits from `k` up replaced. -/
def withSubprio (x : Word) (k : Nat) (p : BitVec 2) : Word :=
  (x &&& ~~~ (3#32 <<< k)) ||| (p.setWidth 32 <<< k)

theorem withSubprio_getLsbD (x : Word) (k : Nat) (p : BitVec 2) {n : Nat} (hn : n < 32) :
    (withSubprio x k p).getLsbD n = if k ≤ n ∧ n < k + 2 then p.getLsbD (n - k) else x.getLsbD n := by
  have hthree : ∀ m, (3#32).getLsbD m = decide (m < 2) := by
    intro m
    by_cases hm : m < 32
    · revert m
      decide
    · simp [BitVec.getLsbD_of_ge _ _ (Nat.not_lt.mp hm), show 1 < m by omega]
  have hwidth : n - k < 32 := by omega
  simp only [withSubprio, BitVec.getLsbD_or, BitVec.getLsbD_and, BitVec.getLsbD_not, BitVec.getLsbD_shiftLeft,
    BitVec.getLsbD_setWidth, hthree, hn, hwidth, decide_true, Bool.true_and]
  by_cases hlow : n < k
  · simp [hlow, show ¬ k ≤ n by omega]
  by_cases hhigh : n < k + 2
  · simp [hlow, hhigh, show k ≤ n by omega, show n - k < 2 by omega]
  · simp [hlow, hhigh, show ¬ n - k < 2 by omega, BitVec.getLsbD_of_ge p _ (show 2 ≤ n - k by omega)]

section SubprioWrite

variable {s : State} {i : Nat}

/-- The state with the sub-priority of source `i` set to `p` in its cell. -/
def setSubprio (s : State) (i : Nat) (p : BitVec 2) : State :=
  setCell s (ipcOffset s.cfg (i / 4))
    (withSubprio (cell s (ipcOffset s.cfg (i / 4))) (8 * (i % 4) + s.cfg.islLsb) p)

@[simp] theorem setSubprio_cfg (s : State) (i : Nat) (p : BitVec 2) : (setSubprio s i p).cfg = s.cfg := rfl

theorem cell_setSubprio (hm : memoryWf s.mem) (p : BitVec 2) (o : Word) :
    cell (setSubprio s i p) o =
      if o = ipcOffset s.cfg (i / 4) then
        withSubprio (cell s (ipcOffset s.cfg (i / 4))) (8 * (i % 4) + s.cfg.islLsb) p
      else cell s o :=
  cell_setCell hm _ _ _

/-- The written sub-priority reads back. -/
theorem subprio_setSubprio (hc : wellFormedConfig s.cfg = true) (hm : memoryWf s.mem) (p : BitVec 2) :
    subprio (setSubprio s i p) i = p := by
  obtain ⟨-, hisl, -⟩ := wf_priority_fields hc
  apply BitVec.eq_of_getLsbD_eq
  intro b hb
  rw [subprio_getLsbD_cell (s := setSubprio s i p) hc i hb, cell_setSubprio hm, setSubprio_cfg, if_pos rfl,
    withSubprio_getLsbD _ _ _ (by omega), if_pos (by omega), Nat.add_sub_cancel_left]

/-- No bit an arbitration reads lies in a sub-priority field (R24, R139). -/
theorem sameScannedBits_setSubprio (hc : wellFormedConfig s.cfg = true) (hm : memoryWf s.mem)
    (hi : i < s.cfg.numSources) (p : BitVec 2) : sameScannedBits s (setSubprio s i p) := by
  obtain ⟨hipl, hisl, hapart⟩ := wf_priority_fields hc
  obtain ⟨f, hf, hr, hb⟩ := exists_ipc hc hi
  intro d hd n hn hscanned
  rw [cell_setSubprio hm, ← hb]
  split
  · next hbase =>
    obtain rfl := eq_of_base_eq hc hd hf hbase
    simp only [scannedBit, hr, decide_eq_true_eq] at hscanned
    rw [withSubprio_getLsbD _ _ _ hn, if_neg (by omega)]
  · rfl

end SubprioWrite

/-- Settles O35: agreement on the scanned bits gives the same sources, hence the same scan and publication; setting a
sub-priority keeps the scanned bits. -/
theorem subPriorityNeverDecides : Obligations.SubPriorityNeverDecides := by
  intro s hc hm
  refine ⟨fun t hcfg htm hbits => ?_, fun i p hi => ?_⟩
  · have hscan : scan t = scan s := scan_eq_of_sources hcfg fun _ => source_eq_of_sameScannedBits hc hcfg hbits
    refine ⟨hscan, fun s' t' hs ht => ?_⟩
    obtain ⟨hstat, hipl⟩ := arb_publishes hm hs
    obtain ⟨hstat', hipl'⟩ := arb_publishes htm ht
    rw [hcfg, hscan] at hstat'
    exact ⟨hstat'.trans hstat.symm, by rw [hipl', hipl, hscan]⟩
  · have hsources : ∀ j, j < s.cfg.numSources → flag (setSubprio s i p) j = flag s j ∧
        enable (setSubprio s i p) j = enable s j ∧ level (setSubprio s i p) j = level s j :=
      fun _ => source_eq_of_sameScannedBits (t := setSubprio s i p) hc rfl (sameScannedBits_setSubprio hc hm hi p)
    exact ⟨subprio_setSubprio hc hm p, hsources, scan_eq_of_sources rfl hsources⟩

end Sys2Proof.Machine
end

section
/-! How a bus address splits into window offset, cell and lane (spec/20_memory.md R41), and which cell and lane an
address inside a register's base word selects. -/

namespace Sys2Proof.Machine

/-- The window is a power of two of at most 2^32 bytes, and a multiple of 16 (R5; log entry 4). -/
theorem wf_window {c : Config} (h : wellFormedConfig c = true) :
    (∃ k, k ≤ 32 ∧ c.windowSize = 2 ^ k) ∧ c.windowSize % 16 = 0 := by
  have hp := (wf_parts h).1
  simp only [parametersOk, Bool.and_eq_true, List.any_eq_true, List.mem_range, beq_iff_eq] at hp
  obtain ⟨⟨k, hk, hw⟩, h16⟩ : (∃ k, k < 33 ∧ c.windowSize = 2 ^ k) ∧ c.windowSize % 16 = 0 := by tauto
  exact ⟨⟨k, by omega, hw⟩, h16⟩

/-- Masking with the window is the remainder by its size (R41). -/
theorem windowOff_toNat {c : Config} (hc : wellFormedConfig c = true) (a : Word) :
    (windowOff c a).toNat = a.toNat % c.windowSize := by
  obtain ⟨⟨k, hk, hw⟩, -⟩ := wf_window hc
  have hle : 2 ^ k ≤ 2 ^ 32 := Nat.pow_le_pow_right (by omega) hk
  have hlt : 2 ^ k - 1 < 2 ^ 32 := by have := Nat.two_pow_pos k; omega
  rw [windowOff, hw, BitVec.toNat_and, BitVec.toNat_ofNat, Nat.mod_eq_of_lt hlt, Nat.and_two_pow_sub_one_eq_mod]

/-- Clearing the two low bits rounds down to a multiple of four. -/
theorem and_wordMask_toNat (x : Word) : (x &&& 0xFFFFFFFC#32).toNat = 4 * (x.toNat / 4) := by
  have hshift : x &&& 0xFFFFFFFC#32 = x >>> 2 <<< 2 := by
    have hmask : 0xFFFFFFFC#32 = BitVec.allOnes 32 <<< 2 := by decide
    rw [hmask, BitVec.shiftLeft_ushiftRight]
  rw [hshift]
  bv_omega

theorem wordOff_toNat {c : Config} (hc : wellFormedConfig c = true) (a : Word) :
    (wordOff c a).toNat = 4 * (a.toNat % c.windowSize / 4) := by
  rw [wordOff, and_wordMask_toNat, windowOff_toNat hc]

/-- The window is a multiple of four, so the lane is in the two low bits of the address itself. -/
theorem laneOf_toNat {c : Config} (hc : wellFormedConfig c = true) (a : Word) : (laneOf c a).toNat = a.toNat % 4 := by
  have hdvd : 4 ∣ c.windowSize := by have := (wf_window hc).2; omega
  rw [laneOf, BitVec.toNat_setWidth, windowOff_toNat hc]
  exact Nat.mod_mod_of_dvd _ hdvd

/-- Settles O7: cell and lane are functions of the address modulo the window. -/
theorem addressSplit : Obligations.AddressSplit := by
  intro c a hc
  refine ⟨windowOff_toNat hc a, wordOff_toNat hc a, laneOf_toNat hc a, fun a' h => ?_⟩
  have hoff : windowOff c a' = windowOff c a :=
    BitVec.eq_of_toNat_eq (by rw [windowOff_toNat hc, windowOff_toNat hc, h])
  exact ⟨by rw [wordOff, wordOff, hoff], by rw [laneOf, laneOf, hoff]⟩

/-- The four addresses of a register's base word select its cell through the assign view, each its own lane (R15,
R41). -/
theorem base_byte_address {c : Config} (hc : wellFormedConfig c = true) {d : Descriptor} (hd : d ∈ c.descTable)
    {a : Word} {k : Nat} (hk : k < 4) (ha : a = d.base + BitVec.ofNat 32 k) :
    busLookup c a = some (d, .assign) ∧ (laneOf c a).toNat = k := by
  obtain ⟨halign, hlt⟩ := base_aligned hc hd
  obtain ⟨-, h16⟩ := wf_window hc
  have hbase := d.base.isLt
  have hnat : a.toNat = d.base.toNat + k := by
    subst ha
    rw [BitVec.toNat_add, BitVec.toNat_ofNat]
    omega
  have hcell : wordOff c a = d.base := by
    apply BitVec.eq_of_toNat_eq
    rw [wordOff_toNat hc, hnat, Nat.mod_eq_of_lt (by omega)]
    omega
  refine ⟨?_, by rw [laneOf_toNat hc]; omega⟩
  rw [busLookup, hcell]
  exact lookup_of_isViewAt hc hd rfl

end Sys2Proof.Machine
end

section
/-! Little-endian assembly of a word from byte writes (spec/20_memory.md R43). -/

namespace Sys2Proof.Machine

theorem and_fullMask (x : Word) : x &&& 0xFFFFFFFF#32 = x := BitVec.and_allOnes

/-- A register that stores what is written to it, whatever the unlock state: plain, read-write, every bit writable and
none protected. -/
structure PlainStorage (d : Descriptor) : Prop where
  role : d.role = .plain
  policy : d.policy = .rw
  wmask : d.wmask = 0xFFFFFFFF#32
  protmask : d.protmask = 0#32

/-- A bus write to plain storage puts the committed word in its cell; the Register File stays canonical (R106). -/
theorem busWrite_plain {d : Descriptor} (hp : PlainStorage d) {w : Width} {a v : Word} {op : OpCode} {s t : State}
    (hm : memoryWf s.mem) (hl : busLookup s.cfg a = some (d, op)) (h : busWrite w a v s = .next t) :
    memoryWf t.mem ∧ cell t d.base = committedWord s w (laneOf s.cfg a) d op v := by
  obtain ⟨-, -, ⟨hnone, -⟩ | ⟨e, op', hfound, rfl⟩⟩ := busWrite_next h
  · simp [hnone] at hl
  obtain ⟨rfl, rfl⟩ : d = e ∧ op = op' := by simpa [hl] using hfound
  have hcommit : committedWord (openTransaction s) w (laneOf s.cfg a) d op v =
      committedWord s w (laneOf s.cfg a) d op v := rfl
  rw [writeFound_eq (by simp [hp.policy]), permittedWrite, hcommit,
    finishWrite_quiet (by simp [hp.role, isInterruptRole]) (by simp [resetWrite, hp.role])]
  have hcell := cell_setCell hm d.base d.base (committedWord s w (laneOf s.cfg a) d op v)
  rw [if_pos rfl] at hcell
  exact ⟨writeMemory_wf hm _ _, hcell⟩

/-- With every bit writable an assign write merges its lanes into the old word (R102, R105). -/
theorem committedWord_plain_assign {d : Descriptor} (hp : PlainStorage d) (s : State) {w : Width} {l : Lane} (v : Word)
    (h : l.toNat + widthBytes w ≤ 4) :
    committedWord s w l d .assign v = (cell s d.base &&& ~~~ lanesMask w l.toNat) ||| laneOperand v w l.toNat := by
  rw [committedWord_eq s w l d .assign v h]
  simp [hp.wmask, hp.protmask, and_fullMask]

/-- The word with byte lane `k` replaced by `b` (R43). -/
def mergeByte (x : Word) (k : Nat) (b : Byte) : Word :=
  (x &&& ~~~ lanesMask .byte k) ||| laneOperand (b.setWidth 32) .byte k

/-- Bits 8k to 8k+7 are the byte's, the others the old word's. -/
theorem mergeByte_getLsbD (x : Word) (b : Byte) {k n : Nat} (hn : n < 32) :
    (mergeByte x k b).getLsbD n = if n / 8 = k then b.getLsbD (n % 8) else x.getLsbD n := by
  have hmask : 0xFF#32 = (BitVec.allOnes 8).setWidth 32 := rfl
  simp only [mergeByte, lanesMask, laneOperand, hmask, BitVec.getLsbD_or, BitVec.getLsbD_and, BitVec.getLsbD_not,
    BitVec.getLsbD_shiftLeft, BitVec.getLsbD_setWidth, BitVec.getLsbD_allOnes]
  by_cases hbelow : n < 8 * k
  · have hk : n / 8 ≠ k := by omega
    simp [hn, hbelow, hk]
  by_cases hin : n - 8 * k < 8
  · have hk : n / 8 = k := by omega
    have hmod : n % 8 = n - 8 * k := by omega
    have h32 : n - 8 * k < 32 := by omega
    simp [hn, hbelow, hin, hk, hmod, h32]
  · have hk : n / 8 ≠ k := by omega
    simp [hn, hin, hk, BitVec.getLsbD_of_ge b (n - 8 * k) (by omega)]

/-- Four merged bytes leave nothing of the old word: lane 0 is the lowest byte (R43). -/
theorem mergeByte_four (x : Word) (b0 b1 b2 b3 : Byte) :
    mergeByte (mergeByte (mergeByte (mergeByte x 0 b0) 1 b1) 2 b2) 3 b3 = b3 ++ b2 ++ b1 ++ b0 := by
  apply BitVec.eq_of_getLsbD_eq
  intro n hn
  have happend : (b3 ++ b2 ++ b1 ++ b0).getLsbD n =
      if n < 8 then b0.getLsbD n else if n - 8 < 8 then b1.getLsbD (n - 8)
      else if n - 8 - 8 < 8 then b2.getLsbD (n - 8 - 8) else b3.getLsbD (n - 8 - 8 - 8) := by
    simp only [BitVec.getLsbD_append]
  rw [happend]
  simp only [mergeByte_getLsbD _ _ hn]
  obtain h | h | h | h : n / 8 = 0 ∨ n / 8 = 1 ∨ n / 8 = 2 ∨ n / 8 = 3 := by omega
  · have hmod : n % 8 = n := by omega
    simp [h, hmod, show n < 8 by omega]
  · have hmod : n % 8 = n - 8 := by omega
    simp [h, hmod, show ¬ n < 8 by omega, show n - 8 < 8 by omega]
  · have hmod : n % 8 = n - 8 - 8 := by omega
    simp [h, hmod, show ¬ n < 8 by omega, show ¬ n - 8 < 8 by omega, show n - 8 - 8 < 8 by omega]
  · have hmod : n % 8 = n - 8 - 8 - 8 := by omega
    simp [h, hmod, show ¬ n < 8 by omega, show ¬ n - 8 < 8 by omega, show ¬ n - 8 - 8 < 8 by omega]

/-- WR.B at lane `k` of plain storage merges its byte into the cell (R43, R107). -/
theorem wrB_plain_next {d : Descriptor} (hp : PlainStorage d) {s t : State} (hc : wellFormedConfig s.cfg = true)
    (hd : d ∈ s.cfg.descTable) (hm : memoryWf s.mem) {a : Word} {k : Nat} (hk : k < 4)
    (ha : a = d.base + BitVec.ofNat 32 k) {b : Byte} (h : exec (.wrB a (b.setWidth 32)) s = .next t) :
    t.cfg = s.cfg ∧ memoryWf t.mem ∧ cell t d.base = mergeByte (cell s d.base) k b := by
  obtain ⟨hl, hlane⟩ := base_byte_address hc hd hk ha
  obtain ⟨hm', hcell⟩ := busWrite_plain hp hm hl h
  rw [committedWord_plain_assign hp s _ (by rw [hlane, widthBytes]; omega), hlane] at hcell
  exact ⟨(busWrite_keeps_inputs h).1, hm', hcell⟩

/-- RD.W of an unforced read-write register answers its cell (R43, R81, R91). -/
theorem rdW_unforced_next {d : Descriptor} (hpol : d.policy = .rw) (hforce : d.rforceMask = 0#32) {s t : State}
    (hc : wellFormedConfig s.cfg = true) (hd : d ∈ s.cfg.descTable) (h : exec (.rdW d.base) s = .next t) :
    t.response = .okRead (.word (cell s d.base)) := by
  obtain ⟨hl, hlane⟩ := base_byte_address (a := d.base) (k := 0) hc hd (by omega) (by simp)
  obtain ⟨-, -, ⟨hnone, -⟩ | ⟨e, op, hfound, rfl⟩⟩ := busRead_next (show busRead .word d.base s = .next t from h)
  · simp [hnone] at hl
  obtain ⟨rfl, rfl⟩ : d = e ∧ .assign = op := by simpa [hl] using hfound
  have hval : d.rforceVal = 0#32 := by
    have hmasks := (wf_descriptor hc hd).2.1
    simp only [masksOk, hforce, Bool.and_eq_true, beq_iff_eq] at hmasks
    obtain ⟨⟨⟨-, hval⟩, -⟩, -⟩ := hmasks
    simpa [and_fullMask] using hval
  have hforced : forced d (cell (openTransaction s) d.base) = cell s d.base := by
    simp [forced, hforce, hval, and_fullMask, cell]
  simp only [readFound, baseRead, hpol, permittedRead_eq, hforced]
  rw [sel_eq_lanes _ _ _ (by rw [hlane, widthBytes]), lanes]

/-- Settles O24: each write merges one byte, the read answers the cell. -/
theorem fourByteWritesMakeAWord : Obligations.FourByteWritesMakeAWord := by
  intro s t0 t1 t2 t3 t d b0 b1 b2 b3 hc hm hd hrole hpol hwmask hprot hforce h0 h1 h2 h3 hread
  have hp : PlainStorage d := ⟨hrole, hpol, hwmask, hprot⟩
  obtain ⟨hcfg0, hm0, hcell0⟩ := wrB_plain_next (k := 0) hp hc hd hm (by omega) (by simp) h0
  rw [← hcfg0] at hc hd
  obtain ⟨hcfg1, hm1, hcell1⟩ := wrB_plain_next (k := 1) hp hc hd hm0 (by omega) rfl h1
  rw [← hcfg1] at hc hd
  obtain ⟨hcfg2, hm2, hcell2⟩ := wrB_plain_next (k := 2) hp hc hd hm1 (by omega) rfl h2
  rw [← hcfg2] at hc hd
  obtain ⟨hcfg3, -, hcell3⟩ := wrB_plain_next (k := 3) hp hc hd hm2 (by omega) rfl h3
  rw [← hcfg3] at hc hd
  rw [rdW_unforced_next hpol hforce hc hd hread, hcell3, hcell2, hcell1, hcell0, mergeByte_four]

end Sys2Proof.Machine
end

section
/-! What a bus write does not look at (spec/20_memory.md R45), and the steps that find no operation (R44,
spec/60_exceptions.md R186). -/

namespace Sys2Proof.Machine

/-- The committed word depends on a value's low 8 * width bits only: `opnd` masks it first (R67, R102). -/
theorem committedWord_congr_value {w : Width} {v v' : Word} (h : v &&& widthMask w = v' &&& widthMask w) (s : State)
    (l : Lane) (d : Descriptor) (op : OpCode) : committedWord s w l d op v = committedWord s w l d op v' := by
  have hopnd : opnd v w l = opnd v' w l := by rw [opnd, opnd, h]
  cases op <;> simp only [committedWord, operandWord, hopnd]

/-- A read-only register drops both writes alike; any other commits the same word. -/
theorem writeFound_congr_value {w : Width} {v v' : Word} (h : v &&& widthMask w = v' &&& widthMask w) (l : Lane)
    (a : Word) (d : Descriptor) (op : OpCode) (s : State) :
    writeFound w l a d op v s = writeFound w l a d op v' s := by
  by_cases hp : d.policy = .ro
  · simp only [writeFound, hp]
  · simp only [writeFound_eq hp, permittedWrite, committedWord_congr_value h]

/-- A bus write looks at its value only after the register was found (R100). -/
theorem busWrite_congr_value {w : Width} {v v' : Word} (h : v &&& widthMask w = v' &&& widthMask w) (a : Word)
    (s : State) : busWrite w a v s = busWrite w a v' s := by
  simp only [busWrite, writeFound_congr_value h]

/-- Settles O22: through every view a write is the write path at its width. -/
theorem highValueBitsAreIgnored : Obligations.HighValueBitsAreIgnored := by
  intro s a v v'
  refine ⟨fun h => ?_, fun h => ?_⟩
  · have hbyte := busWrite_congr_value (w := .byte) h a s
    exact ⟨hbyte, hbyte, hbyte, hbyte⟩
  · have hhalf := busWrite_congr_value (w := .half) h a s
    exact ⟨hhalf, hhalf, hhalf, hhalf⟩

theorem step_of_inbox_nil {s : State} (hin : s.inbox = []) : step s = idle s := by
  simp only [step, hin]

theorem step_of_decode_error {s : State} {p : Packet} {rest : List Packet} {e : DecodeError}
    (hin : s.inbox = p :: rest) (hdec : decode p = .error e) : step s = rejectPacket e (taken s rest) := by
  simp only [step, hin, hdec]

theorem rejectPacket_halted {s : State} (h : s.halted = true) (e : DecodeError) :
    rejectPacket e s = .fault .halted := by
  simp [rejectPacket, h]

/-- A running block refuses a width code 3 as R44 says, every other packet that is no operation as such. -/
theorem rejectPacket_running {s : State} (h : s.halted = false) (e : DecodeError) :
    rejectPacket e s = .refused (if e = .badWidth then .misalignedOrBadWidth else .notAnOperation) := by
  cases e <;> simp [rejectPacket, h]

/-- Settles O5: by what the block received and whether it is halted. -/
theorem stepWithoutAnOperation : Obligations.StepWithoutAnOperation := by
  intro s
  refine ⟨fun hin hr => ?_, fun hin hh => ?_, fun p rest e hin hdec => ⟨fun hh => ?_, fun hr he => ?_, fun hr he => ?_⟩⟩
  · rw [step_of_inbox_nil hin, idle, if_neg (by simp [hr]), openTransaction]
  · rw [step_of_inbox_nil hin, idle, if_pos hh]
  · rw [step_of_decode_error hin hdec, rejectPacket_halted (s := taken s rest) hh]
  · rw [step_of_decode_error hin hdec, rejectPacket_running (s := taken s rest) hr, if_pos he]
  · rw [step_of_decode_error hin hdec, rejectPacket_running (s := taken s rest) hr, if_neg he]

end Sys2Proof.Machine
end

section
/-! Decode and encode agree (spec/30_encoding.md R60, R63 to R65, R69; the packet layout is log entry 3's): one rule per
operand format in each direction, then the operations by format. Last, R61 and R72: the letter of a bus mnemonic decides
nothing. -/

namespace Sys2Proof

/-! From an operation to its packet and back: the format's check accepts the operand words the packet keeps zero. -/

theorem noOperand_zero (i : Instr) : noOperand 0#32 0#32 0#32 i = .ok i := by simp

theorem oneOperand_zero (i : Instr) : oneOperand 0#32 0#32 i = .ok i := by simp

theorem twoOperands_zero (i : Instr) : twoOperands 0#32 i = .ok i := by simp

theorem decodeKind_kindWord (k : ResetKind) : decodeKind (kindWord k) 0#32 0#32 = .ok (.fullreset k) := by
  cases k <;> simp [kindWord]

/-- Settles O2: the header selects the operation's row of the map, and the row's format accepts the packet's operand
words. -/
theorem decodeOfEncode : Obligations.DecodeOfEncode := by
  intro i
  rw [decode]
  cases i <;> rw [encode, packetHeader_pack, packetA_pack, packetB_pack, packetC_pack]
  case rdB | rdH | rdW | rdcB | rdsB | rdiB | rdcH | rdsH | rdiH | rdcW | rdsW | rdiW | raise | clear =>
    exact oneOperand_zero _
  case wrB | wrH | wrW | wrcB | wrcH | wrcW | wrsB | wrsH | wrsW | wriB | wriH | wriW =>
    exact twoOperands_zero _
  case push => rfl
  case por | arb => exact noOperand_zero _
  case fullreset k => exact decodeKind_kindWord k

/-! From a packet to its operation and back: a packet that a row of format X accepts is packed from the row's number and
the operand words of X, the other words being zero. In each rule `n` is the row's number and `j` the row's operation. -/

section
variable {p : Packet} {n : Nat} {i j : Instr} (hn : (packetHeader p).toNat = n)
include hn

/-- A packet is packed from its header's number and its operand words. -/
theorem pack_of_headerNumber : pack (BitVec.ofNat 8 n) (packetA p) (packetB p) (packetC p) = p := by
  rw [← packetHeader_of_toNat hn, pack_fields]

theorem encode_of_noOperand (hj : encode j = pack (BitVec.ofNat 8 n) 0#32 0#32 0#32)
    (h : noOperand (packetA p) (packetB p) (packetC p) j = .ok i) : encode i = p := by
  obtain ⟨⟨ha, hb, hc⟩, rfl⟩ := (noOperand_ok ..).mp h
  have hp := pack_of_headerNumber hn
  rwa [ha, hb, hc, ← hj] at hp

theorem encode_of_oneOperand (hj : encode j = pack (BitVec.ofNat 8 n) (packetA p) 0#32 0#32)
    (h : oneOperand (packetB p) (packetC p) j = .ok i) : encode i = p := by
  obtain ⟨⟨hb, hc⟩, rfl⟩ := (oneOperand_ok ..).mp h
  have hp := pack_of_headerNumber hn
  rwa [hb, hc, ← hj] at hp

theorem encode_of_twoOperands (hj : encode j = pack (BitVec.ofNat 8 n) (packetA p) (packetB p) 0#32)
    (h : twoOperands (packetC p) j = .ok i) : encode i = p := by
  obtain ⟨hc, rfl⟩ := (twoOperands_ok ..).mp h
  have hp := pack_of_headerNumber hn
  rwa [hc, ← hj] at hp

theorem encode_of_decodeKind (hj : ∀ k, encode (.fullreset k) = pack (BitVec.ofNat 8 n) (kindWord k) 0#32 0#32)
    (h : decodeKind (packetA p) (packetB p) (packetC p) = .ok i) : encode i = p := by
  obtain ⟨⟨hb, hc⟩, ⟨ha, rfl⟩ | ⟨ha, rfl⟩⟩ := (decodeKind_ok ..).mp h
  all_goals
    have hp := pack_of_headerNumber hn
    rw [ha, hb, hc] at hp
    exact (hj _).trans hp

end

/-- Settles O3: by the row of the operation map (R69) that accepts the packet. -/
theorem encodeOfDecode : Obligations.EncodeOfDecode := by
  intro p i h
  rw [decode] at h
  split at h
  case h_1 hn | h_2 hn | h_3 hn | h_4 hn | h_5 hn | h_6 hn | h_7 hn | h_8 hn | h_9 hn |
      h_10 hn | h_11 hn | h_12 hn | h_25 hn | h_26 hn =>
    exact encode_of_oneOperand hn rfl h
  case h_13 hn | h_14 hn | h_15 hn | h_16 hn | h_17 hn | h_18 hn | h_19 hn | h_20 hn | h_21 hn |
      h_22 hn | h_23 hn | h_24 hn =>
    exact encode_of_twoOperands hn rfl h
  case h_27 hn =>
    obtain rfl := Except.ok.inj h
    exact pack_of_headerNumber hn
  case h_28 hn | h_29 hn => exact encode_of_noOperand hn rfl h
  case h_30 hn => exact encode_of_decodeKind hn (fun _ => rfl) h
  case h_31 => cases h

/-- The packets that decode to an operation: its packet, and no other. -/
theorem decode_eq_ok_iff {p : Packet} {i : Instr} : decode p = .ok i ↔ encode i = p :=
  ⟨encodeOfDecode p i, fun h => h ▸ decodeOfEncode i⟩

/-- Settles O1: the packets of operations by comparing them with the encoder's, the others by running the decoder. -/
theorem tableWordsDecode : Obligations.TableWordsDecode := by
  simp only [Obligations.TableWordsDecode, decode_eq_ok_iff]
  decide

end Sys2Proof

namespace Sys2Proof.Machine

/-- Settles O52: a read is the read path at its width, a write the write path, whichever view the letter names. -/
theorem letterIsRedundant : Obligations.LetterIsRedundant := by
  intro i j s w op op' a v
  refine ⟨fun hi hj => ?_, fun hi hj => ?_⟩
  · rw [exec_of_readForm hi, exec_of_readForm hj]
  · rw [exec_of_writeForm hi, exec_of_writeForm hj]

end Sys2Proof.Machine
end

section
/-! Bus reads (spec/40_bus_read.md R80 to R88): the checks before a read, the four things a read of a register found can
be, and what each leaves. -/

namespace Sys2Proof.Machine

/-! ### The checks and the lanes, by address -/

/-- The containment check looks at the two low bits of the address (R41, R44). -/
theorem contained_laneOf {c : Config} (hc : wellFormedConfig c = true) (w : Width) (a : Word) :
    contained w (laneOf c a) = true ↔ a.toNat % 4 + widthBytes w ≤ 4 := by
  rw [contained, decide_eq_true_iff, laneOf_toNat hc]

/-- The value a contained read answers is the lanes from the address's byte up (R41, R67). -/
theorem sel_laneOf {c : Config} (hc : wellFormedConfig c = true) {w : Width} {a : Word}
    (hcont : a.toNat % 4 + widthBytes w ≤ 4) (x : Word) : sel x w (laneOf c a) = lanes x w (a.toNat % 4) := by
  rw [sel_eq_lanes _ _ _ (by rwa [laneOf_toNat hc]), laneOf_toNat hc]

theorem laneOf_eq_ofNat {c : Config} (hc : wellFormedConfig c = true) (a : Word) :
    laneOf c a = BitVec.ofNat 2 (a.toNat % 4) := by
  rw [← laneOf_toNat hc, BitVec.ofNat_toNat, BitVec.setWidth_eq]

theorem zeroValue_eq_zeros (w : Width) : zeroValue w = zeros w := by
  cases w <;> rfl

/-- A read operation that passes the checks before the policy runs the read of the register found (R80). -/
theorem exec_read_found {i : Instr} {s : State} {w : Width} {op op' : OpCode} {a : Word} {d : Descriptor}
    (hf : readForm i = some (w, op, a)) (hr : s.halted = false) (hc : wellFormedConfig s.cfg = true)
    (hcont : a.toNat % 4 + widthBytes w ≤ 4) (hl : busLookup s.cfg a = some (d, op')) :
    exec i s = .next (readFound w (laneOf s.cfg a) a d op' (openTransaction s)) := by
  rw [exec_of_readForm hf, busRead_found hr ((contained_laneOf hc w a).mpr hcont) hl]

/-! ### What a read of a register found can be -/

/-- A read the policy forbids: of a write-only register's base (R83), of a view that disallows reads (R88). -/
def readViolates (d : Descriptor) (op : OpCode) : Prop :=
  op = .assign ∧ d.policy = .wo ∨ op ≠ .assign ∧ d.aliasRead = .disallowed

theorem readFound_assign {d : Descriptor} (hp : d.policy ≠ .wo) (w : Width) (l : Lane) (a : Word) (s : State) :
    readFound w l a d .assign s = permittedRead w l d s := by
  cases h : d.policy with
  | wo => exact absurd h hp
  | rw | ro | wse => simp only [readFound, baseRead, h]

theorem readFound_alias {op : OpCode} (hop : op ≠ .assign) (w : Width) (l : Lane) (a : Word) (d : Descriptor)
    (s : State) : readFound w l a d op s = aliasRead w l a d s := by
  cases op with
  | assign => exact absurd rfl hop
  | clr | set | inv => rfl

theorem readFound_violating {d : Descriptor} {op : OpCode} (h : readViolates d op) (w : Width) (l : Lane) (a : Word)
    (s : State) : readFound w l a d op s = violatingRead w l a d s := by
  obtain ⟨rfl, hp⟩ | ⟨hop, hd⟩ := h
  · simp only [readFound, baseRead, hp]
  · simp only [readFound_alias hop, aliasRead, hd]

/-- A read the policy permits is the base read with its effects, or a read of an aliased view, which only answers (R84,
R86, R87). -/
theorem readFound_performed {d : Descriptor} {op : OpCode} (h : ¬ readViolates d op) (w : Width) (l : Lane) (a : Word)
    (s : State) :
    (op = .assign ∧ readFound w l a d op s = permittedRead w l d s) ∨
    ∃ v, readFound w l a d op s = respond s (.okRead v) := by
  by_cases hop : op = .assign
  · subst hop
    exact Or.inl ⟨rfl, readFound_assign (fun hp => h (Or.inl ⟨rfl, hp⟩)) w l a s⟩
  · rw [readFound_alias hop]
    cases hd : d.aliasRead with
    | base | zero => exact Or.inr ⟨_, by simp only [aliasRead, hd]; rfl⟩
    | disallowed => exact absurd (Or.inr ⟨hop, hd⟩) h

/-! ### What each leaves -/

/-- A violating read operation logs, answers with the underlying value, and changes nothing else (R83, R88, R187). -/
theorem exec_read_violating {i : Instr} {s : State} {w : Width} {op op' : OpCode} {a : Word} {d : Descriptor}
    (hf : readForm i = some (w, op, a)) (hr : s.halted = false) (hc : wellFormedConfig s.cfg = true)
    (hcont : a.toNat % 4 + widthBytes w ≤ 4) (hl : busLookup s.cfg a = some (d, op')) (hv : readViolates d op') :
    exec i s = .next { s with
      response := .policyRead (lanes (cell s d.base) w (a.toNat % 4))
      events := [.logPolicyViolation a .read d.name] } := by
  rw [exec_read_found hf hr hc hcont hl, readFound_violating hv, ← sel_laneOf hc hcont]
  rfl

/-- The read side effect touches its target cell alone (R84), and nothing but the Register File. -/
theorem applyReadSide_frame {s : State} (hm : memoryWf s.mem) (d : Descriptor) : readFrame s (applyReadSide s d) d := by
  rcases hside : d.rside with _ | ⟨target, mask⟩
  · simp [readFrame, samePorts, applyReadSide, hside]
  · have happly : applyReadSide s d = setCell s target (cell s target &&& ~~~ mask) := by
      simp only [applyReadSide, hside]
    rw [happly]
    refine ⟨⟨rfl, rfl, rfl, rfl⟩, rfl, rfl, rfl, fun o => ?_⟩
    rw [cell_setCell hm]
    simp only [hside]
    by_cases ho : o = target
    · subst ho
      rfl
    · rw [if_neg ho, if_neg ho]

/-- The hook and the response of a permitted read are outputs: its frame is the side effect's (R84). -/
theorem permittedRead_frame {s : State} (hm : memoryWf s.mem) (w : Width) (l : Lane) (d : Descriptor) :
    readFrame s (permittedRead w l d s) d := by
  rw [permittedRead_eq]
  exact applyReadSide_frame hm d

/-- Settles O9: the permitted read of the base view, its lane and its value by address. -/
theorem baseReadReturnsTheLanes : Obligations.BaseReadReturnsTheLanes := by
  intro i s w a d hf hr hc hm hcont hl hp
  have hrun := exec_read_found hf hr hc hcont hl
  rw [readFound_assign hp] at hrun
  refine ⟨_, hrun, ?_, ?_, permittedRead_frame (s := openTransaction s) hm w _ d⟩
  · rw [permittedRead_eq, sel_laneOf hc hcont]
    rfl
  · rw [permittedRead_eq, sel_laneOf hc hcont, laneOf_eq_ofNat hc]
    rfl

/-- Settles O10: the base view of a write-only register is a violating read. -/
theorem writeOnlyReadIsLogged : Obligations.WriteOnlyReadIsLogged :=
  fun _ _ _ _ _ hf hr hc hcont hl hp => exec_read_violating hf hr hc hcont hl (Or.inl ⟨rfl, hp⟩)

/-- Settles O11: a permitted read of an aliased view only answers, with the forced base value or with zero. -/
theorem aliasReadReturnsBaseOrZero : Obligations.AliasReadReturnsBaseOrZero := by
  intro i s w op a d hf hop hr hc hcont hl
  have hrun := exec_read_found hf hr hc hcont hl
  rw [readFound_alias hop] at hrun
  refine ⟨fun hbase => ?_, fun hzero => ?_⟩
  · rw [hrun, ← sel_laneOf hc hcont]
    simp only [aliasRead, hbase]
    rfl
  · rw [hrun, ← zeroValue_eq_zeros]
    simp only [aliasRead, hzero]
    rfl

/-- Settles O12: a view that disallows reads makes it a violating read. -/
theorem disallowedAliasReadIsLogged : Obligations.DisallowedAliasReadIsLogged :=
  fun _ _ _ _ _ _ hf hop hr hc hcont hl hd => exec_read_violating hf hr hc hcont hl (Or.inr ⟨hop, hd⟩)

/-! ### What no read changes (R85) -/

/-- The configuration, the queue, the free-value counter, the unlock state and the published level and count agree. -/
structure KeepsPublished (s t : State) : Prop where
  unlock : t.unlock = s.unlock
  coreIpl : t.coreIpl = s.coreIpl
  arbCount : t.arbCount = s.arbCount
  cfg : t.cfg = s.cfg
  draws : t.draws = s.draws
  inbox : t.inbox = s.inbox

/-- A read keeps all but the outputs, or is a read of a base address and has that read's frame. -/
theorem busRead_effect {w : Width} {a : Word} {s t : State} (hm : memoryWf s.mem) (h : busRead w a s = .next t) :
    KeepsPublished s t ∧
      (t.mem = s.mem ∨ ∃ d, busLookup s.cfg a = some (d, .assign) ∧ readFrame s t d) := by
  obtain ⟨-, -, ⟨-, rfl⟩ | ⟨d, op, hl, rfl⟩⟩ := busRead_next h
  · exact ⟨⟨rfl, rfl, rfl, rfl, rfl, rfl⟩, Or.inl rfl⟩
  by_cases hv : readViolates d op
  · rw [readFound_violating hv]
    exact ⟨⟨rfl, rfl, rfl, rfl, rfl, rfl⟩, Or.inl rfl⟩
  obtain ⟨rfl, heq⟩ | ⟨v, heq⟩ := readFound_performed hv w (laneOf s.cfg a) a (openTransaction s)
  · have hframe : readFrame s (permittedRead w (laneOf s.cfg a) d (openTransaction s)) d :=
      permittedRead_frame (s := openTransaction s) hm w _ d
    have ⟨⟨hcfg, _, hdraws, hinbox⟩, hunlock, hipl, hcount, _⟩ := hframe
    rw [heq]
    exact ⟨⟨hunlock, hipl, hcount, hcfg, hdraws, hinbox⟩, Or.inr ⟨d, hl, hframe⟩⟩
  · rw [heq]
    exact ⟨⟨rfl, rfl, rfl, rfl, rfl, rfl⟩, Or.inl rfl⟩

/-- A cell a base read changes is its side effect's target, and loses the mask's bits (R84). -/
theorem rside_of_cell_ne {s t : State} {d : Descriptor} (h : readFrame s t d) {o : Word} (ho : cell t o ≠ cell s o) :
    ∃ m, d.rside = some (o, m) ∧ cell t o = cell s o &&& ~~~ m := by
  obtain ⟨-, -, -, -, hcell⟩ := h
  have hcell := hcell o
  rcases hside : d.rside with _ | ⟨target, mask⟩ <;> simp only [hside] at hcell
  · exact absurd hcell ho
  by_cases htarget : o = target
  · subst htarget
    exact ⟨mask, rfl, by simpa using hcell⟩
  · rw [if_neg htarget] at hcell
    exact absurd hcell ho

/-- A read side target is a PLAIN register's base, so not STAT (R16 items 3 and 6, R17). -/
theorem rside_ne_statOff {c : Config} (hc : wellFormedConfig c = true) {d : Descriptor} (hd : d ∈ c.descTable)
    {o m : Word} (hside : d.rside = some (o, m)) : o ≠ c.statOff := by
  have ⟨_, _, hhooks, _⟩ := wf_descriptor hc hd
  simp only [hooksOk, hside, Bool.and_eq_true, List.any_eq_true, beq_iff_eq] at hhooks
  obtain ⟨⟨⟨e, he, rfl, hplain⟩, -⟩, -⟩ := hhooks
  exact base_ne_statOff hc he (by simp [hplain])

/-- Settles O13: only a base read's side target changes, and it is never STAT. -/
theorem readsNeverPublish : Obligations.ReadsNeverPublish := by
  intro i s t w op a hf hc hm hrun
  obtain ⟨hkeeps, heffect⟩ := busRead_effect hm (exec_of_readForm hf s ▸ hrun)
  have hchanged : ∀ o, cell t o ≠ cell s o →
      ∃ d m, busLookup s.cfg a = some (d, .assign) ∧ d.rside = some (o, m) ∧ cell t o = cell s o &&& ~~~ m := by
    intro o ho
    obtain hmem | ⟨d, hl, hframe⟩ := heffect
    · exact absurd (cell_congr hmem o) ho
    · obtain ⟨m, hside, hcell⟩ := rside_of_cell_ne hframe ho
      exact ⟨d, m, hl, hside, hcell⟩
  have hstat : cell t s.cfg.statOff = cell s s.cfg.statOff := by
    by_contra ho
    obtain ⟨d, m, hl, hside, -⟩ := hchanged _ ho
    exact rside_ne_statOff hc (mem_of_busLookup hl) hside rfl
  exact ⟨hkeeps.unlock, hkeeps.coreIpl, hstat, hkeeps.arbCount, hkeeps.cfg, hkeeps.draws, hkeeps.inbox, hchanged⟩

end Sys2Proof.Machine
end

section
/-! Which check of a bus access decides (spec/60_exceptions.md R187, R191): one outcome per check, for either
direction. -/

namespace Sys2Proof.Machine

/-! ### Events that report no error -/

/-- No event of the list is a violation's log or a fatal report (R186, R187). -/
def NoErrorReported (es : List Event) : Prop :=
  ∀ e ∈ es, (∀ x y z, e ≠ .logPolicyViolation x y z) ∧ ∀ x y, e ≠ .fatalUnsupportedRegister x y

theorem noErrorReported_nil : NoErrorReported [] := nofun

theorem noErrorReported_append {es fs : List Event} (he : NoErrorReported es) (hf : NoErrorReported fs) :
    NoErrorReported (es ++ fs) :=
  fun e h => (List.mem_append.mp h).elim (he e) (hf e)

theorem noErrorReported_readHook (h : Option HookId) (b : Word) (l : Lane) (w : Width) (v : Value) :
    NoErrorReported (hookEvents h fun id => .readHook id b l w v) := by
  cases h <;> simp [hookEvents, NoErrorReported]

theorem noErrorReported_writeHook (h : Option HookId) (b old new : Word) :
    NoErrorReported (hookEvents h fun id => .writeHook id b old new) := by
  cases h <;> simp [hookEvents, NoErrorReported]

theorem noErrorReported_arbEvents (old : Level) (r : ArbResult) : NoErrorReported (arbEvents old r) := by
  unfold arbEvents
  split
  · exact noErrorReported_nil
  split <;> simp [NoErrorReported]

theorem noErrorReported_resetEvents : NoErrorReported [.periphReset, .requestCpuReset] := by
  simp [NoErrorReported]

/-- Stage 4f of a write emits its hook's event and those of a reset or of an arbitration (R106). -/
theorem finishWrite_reports_nothing {s : State} {d : Descriptor} (hc : wellFormedConfig s.cfg = true)
    (hd : d ∈ s.cfg.descTable) (hs : NoErrorReported s.events) (new : Word) :
    NoErrorReported (finishWrite s d new).events := by
  have hhook := noErrorReported_append hs (noErrorReported_writeHook d.whook d.base (cell s d.base) new)
  by_cases hreset : resetWrite s d new
  · rw [finishWrite_reset hreset, fullReset_soft_eq]
    exact noErrorReported_append (noErrorReported_append hhook noErrorReported_resetEvents)
      (noErrorReported_arbEvents _ _)
  cases hq : isInterruptRole d.role with
  | false =>
    rw [finishWrite_quiet hq hreset]
    exact hhook
  | true =>
    obtain ⟨-, -, hnone, -⟩ := interrupt_register hc hd hq
    rw [finishWrite_interrupt hq hnone, arbitrate_eq]
    exact noErrorReported_append hs (noErrorReported_arbEvents _ _)

/-! ### The outcome each check decides -/

/-- A bus operation of the given direction, at this width and address (R60, R69). -/
def isAccess (i : Instr) (w : Width) (op : OpCode) (a : Word) (dir : Dir) : Prop :=
  readForm i = some (w, op, a) ∧ dir = .read ∨ ∃ v, writeForm i = some (w, op, a, v) ∧ dir = .write

/-- An access the policy forbids: a write to a read-only register (R100), or a violating read (R83, R88). -/
def accessViolates (dir : Dir) (d : Descriptor) (op : OpCode) : Prop :=
  (dir = .write ∧ d.policy = .ro) ∨ (dir = .read ∧ op = .assign ∧ d.policy = .wo) ∨
    (dir = .read ∧ op ≠ .assign ∧ d.aliasRead = .disallowed)

theorem accessViolates_read (d : Descriptor) (op : OpCode) : accessViolates .read d op ↔ readViolates d op := by
  simp [accessViolates, readViolates]

theorem accessViolates_write (d : Descriptor) (op : OpCode) : accessViolates .write d op ↔ d.policy = .ro := by
  simp [accessViolates]

/-- The answer to a violation: a read's carries the underlying value, a write's nothing (R66, R187). -/
def policyResponse (dir : Dir) (v : Value) : Response :=
  match dir with
  | .read => .policyRead v
  | .write => .policyWrite

/-- What a performed access leaves: the block runs, the answer is a success of its direction, no error is reported. -/
structure Performed (dir : Dir) (t : State) : Prop where
  running : t.halted = false
  write : dir = .write → t.response = .okWrite
  read : dir = .read → ∃ v, t.response = .okRead v
  events : NoErrorReported t.events

section Access
variable {i : Instr} {s : State} {w : Width} {op op' : OpCode} {a : Word} {dir : Dir} {d : Descriptor}

/-- The first check (R186, R191). -/
theorem access_halted (hi : isAccess i w op a dir) (hh : s.halted = true) : exec i s = .fault .halted := by
  refine exec_halted hh ?_
  rintro rfl
  simp [isAccess, readForm, writeForm] at hi

/-- The second check (R44, R191). -/
theorem access_uncontained (hi : isAccess i w op a dir) (hr : s.halted = false) (hc : wellFormedConfig s.cfg = true)
    (hcont : 4 < a.toNat % 4 + widthBytes w) : exec i s = .refused .misalignedOrBadWidth := by
  have hfalse : ¬ contained w (laneOf s.cfg a) = true := by
    rw [contained_laneOf hc]
    omega
  obtain ⟨hf, -⟩ | ⟨v, hf, -⟩ := hi
  · simp [exec_of_readForm hf, busRead, whenRunning_running hr, hfalse]
  · simp [exec_of_writeForm hf, busWrite, whenRunning_running hr, hfalse]

/-- The third check (R186, R191). -/
theorem access_unmapped (hi : isAccess i w op a dir) (hr : s.halted = false) (hc : wellFormedConfig s.cfg = true)
    (hcont : a.toNat % 4 + widthBytes w ≤ 4) (hl : busLookup s.cfg a = none) :
    exec i s = .next (raiseFatal (openTransaction s) a dir) := by
  have hcont := (contained_laneOf hc w a).mpr hcont
  obtain ⟨hf, rfl⟩ | ⟨v, hf, rfl⟩ := hi
  · rw [exec_of_readForm hf, busRead_unmapped hr hcont hl]
  · simp [exec_of_writeForm hf, busWrite, whenRunning_running hr, hcont, hl]

/-- The fourth check: a violation is logged and answered, and changes nothing (R187, R191). -/
theorem access_violating (hi : isAccess i w op a dir) (hr : s.halted = false) (hc : wellFormedConfig s.cfg = true)
    (hcont : a.toNat % 4 + widthBytes w ≤ 4) (hl : busLookup s.cfg a = some (d, op'))
    (hv : accessViolates dir d op') :
    exec i s = .next { s with
      response := policyResponse dir (lanes (cell s d.base) w (a.toNat % 4))
      events := [.logPolicyViolation a dir d.name] } := by
  obtain ⟨hf, rfl⟩ | ⟨v, hf, rfl⟩ := hi
  · exact exec_read_violating hf hr hc hcont hl ((accessViolates_read d op').mp hv)
  · rw [exec_of_writeForm hf, busWrite_found hr ((contained_laneOf hc w a).mpr hcont) hl]
    simp only [writeFound, (accessViolates_write d op').mp hv]
    rfl

theorem readFound_is_performed (hr : s.halted = false) (hs : NoErrorReported s.events) (hv : ¬ readViolates d op)
    (l : Lane) : Performed .read (readFound w l a d op s) := by
  have hrunning : (readFound w l a d op s).halted = false := by rw [readFound_halted, hr]
  obtain ⟨-, heq⟩ | ⟨v, heq⟩ := readFound_performed hv w l a s
  · rw [heq, permittedRead_eq] at hrunning ⊢
    exact ⟨hrunning, nofun, fun _ => ⟨_, rfl⟩, noErrorReported_append hs (noErrorReported_readHook _ _ _ _ _)⟩
  · rw [heq] at hrunning ⊢
    exact ⟨hrunning, nofun, fun _ => ⟨v, rfl⟩, hs⟩

theorem writeFound_is_performed (hr : s.halted = false) (hc : wellFormedConfig s.cfg = true)
    (hd : d ∈ s.cfg.descTable) (hs : NoErrorReported s.events) (hp : d.policy ≠ .ro) (l : Lane) (v : Word) :
    Performed .write (writeFound w l a d op v s) := by
  refine ⟨by simp [hr], fun _ => ?_, nofun, ?_⟩ <;> rw [writeFound_eq hp]
  · rfl
  · exact finishWrite_reports_nothing hc hd hs _

/-- An access that passes every check is performed (R80, R100). -/
theorem access_performed (hi : isAccess i w op a dir) (hr : s.halted = false) (hc : wellFormedConfig s.cfg = true)
    (hcont : a.toNat % 4 + widthBytes w ≤ 4) (hl : busLookup s.cfg a = some (d, op'))
    (hv : ¬ accessViolates dir d op') : ∃ t, exec i s = .next t ∧ Performed dir t := by
  obtain ⟨hf, rfl⟩ | ⟨v, hf, rfl⟩ := hi
  · rw [accessViolates_read] at hv
    exact ⟨_, exec_read_found hf hr hc hcont hl,
      readFound_is_performed (s := openTransaction s) hr noErrorReported_nil hv _⟩
  · rw [accessViolates_write] at hv
    exact ⟨_, (exec_of_writeForm hf s).trans (busWrite_found hr ((contained_laneOf hc w a).mpr hcont) hl),
      writeFound_is_performed (s := openTransaction s) hr hc (mem_of_busLookup hl) noErrorReported_nil hv _ _⟩

end Access

/-- Settles O26: the checks in R191's order, each with the outcome it decides. -/
theorem firstCheckDecides : Obligations.FirstCheckDecides := by
  intro i s w op a dir hi hc
  by_cases hh : s.halted = true
  · rw [if_pos hh]
    exact access_halted hi hh
  rw [if_neg hh]
  have hr : s.halted = false := Bool.eq_false_iff.mpr hh
  by_cases hcont : 4 < a.toNat % 4 + widthBytes w
  · rw [if_pos hcont]
    exact access_uncontained hi hr hc hcont
  rw [if_neg hcont]
  have hcont : a.toNat % 4 + widthBytes w ≤ 4 := Nat.le_of_not_lt hcont
  rcases hl : busLookup s.cfg a with _ | ⟨d, op'⟩
  · exact ⟨_, access_unmapped hi hr hc hcont hl, rfl, rfl, rfl⟩
  simp only
  split
  · next hv =>
    refine ⟨_, access_violating hi hr hc hcont hl hv, rfl, ⟨rfl, rfl, rfl, rfl⟩, rfl, rfl, rfl, rfl, ?_, ?_⟩
    · rintro rfl
      rfl
    · rintro rfl
      rfl
  · next hv =>
    obtain ⟨t, hrun, ht⟩ := access_performed hi hr hc hcont hl hv
    exact ⟨t, hrun, ht.running, ht.write, ht.read, ht.events⟩

end Sys2Proof.Machine
end

section
/-! The word a bus write commits, bit by bit (spec/41_bus_write.md R102 to R105): the lanes an access covers, what the
write mask keeps, and what an invert does twice. -/

namespace Sys2Proof.Machine

/-- A width is its number of bytes, from bit 0 up (R44, R67). -/
theorem widthMask_getLsbD (w : Width) {n : Nat} (hn : n < 32) :
    (widthMask w).getLsbD n = decide (n < 8 * widthBytes w) := by
  have hones : widthMask w = (BitVec.allOnes (8 * widthBytes w)).setWidth 32 := by cases w <;> rfl
  simp [hones, hn]

/-- The lanes accessed are the width's bytes from the lane up (R67). -/
theorem laneMask_getLsbD (w : Width) (l : Lane) {n : Nat} (hn : n < 32) :
    (laneMask w l).getLsbD n = decide (8 * l.toNat ≤ n ∧ n < 8 * (l.toNat + widthBytes w)) := by
  rw [laneMask, BitVec.getLsbD_shiftLeft, widthMask_getLsbD w (by omega), Bool.eq_iff_iff]
  simp only [Bool.and_eq_true, Bool.not_eq_true', decide_eq_true_eq, decide_eq_false_iff_not]
  omega

/-- The operand has no bit outside the lanes accessed (R67). -/
theorem opnd_and_laneMask (v : Word) (w : Width) (l : Lane) : opnd v w l &&& laneMask w l = opnd v w l := by
  rw [opnd, laneMask, ← BitVec.shiftLeft_and_distrib, BitVec.and_assoc, BitVec.and_self]

/-- Outside the lanes accessed an operation's candidate word is the old word (R102, R103). -/
theorem decodeWriteOp_getLsbD_outside (op : OpCode) (old v : Word) {w : Width} {l : Lane} {n : Nat}
    (h : (laneMask w l).getLsbD n = false) :
    (decodeWriteOp op old (operandWord op old v w l)).getLsbD n = old.getLsbD n := by
  have hopnd : (opnd v w l).getLsbD n = false := by
    rw [← opnd_and_laneMask, BitVec.getLsbD_and, h, Bool.and_false]
  cases op with
  | assign | clr => simpa [decodeWriteOp, operandWord, h, hopnd] using BitVec.lt_of_getLsbD
  | set | inv => simp [decodeWriteOp, operandWord, hopnd]

/-- The write mask takes the candidate's bits under it and keeps the old ones elsewhere (R105). -/
theorem applyMask_getLsbD (eff cand old : Word) {n : Nat} (hn : n < 32) :
    (applyMask eff cand old).getLsbD n = if eff.getLsbD n = true then cand.getLsbD n else old.getLsbD n := by
  rw [applyMask, BitVec.getLsbD_or, BitVec.getLsbD_and, BitVec.getLsbD_and, BitVec.getLsbD_not]
  cases eff.getLsbD n <;> simp [hn]

/-- A write changes no bit outside the lanes it accesses (R102, R105). -/
theorem committedWord_getLsbD_outside (s : State) (d : Descriptor) (op : OpCode) (v : Word) {w : Width} {l : Lane}
    {n : Nat} (hn : n < 32) (h : (laneMask w l).getLsbD n = false) :
    (committedWord s w l d op v).getLsbD n = (cell s d.base).getLsbD n := by
  rw [committedWord, applyMask_getLsbD _ _ _ hn, decodeWriteOp_getLsbD_outside op _ v h, ite_self]

/-- A write changes no bit outside its mask (R105). -/
theorem applyMask_and_of_disjoint {eff k : Word} (h : eff &&& k = 0#32) (cand old : Word) :
    applyMask eff cand old &&& k = old &&& k := by
  refine BitVec.eq_of_getLsbD_eq fun n hn => ?_
  have hbit : (eff.getLsbD n && k.getLsbD n) = false := by rw [← BitVec.getLsbD_and, h, BitVec.getLsbD_zero]
  rw [BitVec.getLsbD_and, BitVec.getLsbD_and, applyMask_getLsbD _ _ _ hn]
  cases he : eff.getLsbD n with
  | false => rw [if_neg nofun]
  | true =>
    have hk : k.getLsbD n = false := by simpa [he] using hbit
    simp [hk]

/-- The same invert twice gives the old word where both writes have the same mask (R103, R105). -/
theorem applyMask_invert_twice {e e' k : Word} (h : e &&& k = e' &&& k) (x m : Word) :
    applyMask e' (applyMask e (x ^^^ m) x ^^^ m) (applyMask e (x ^^^ m) x) &&& k = x &&& k := by
  refine BitVec.eq_of_getLsbD_eq fun n hn => ?_
  have hbit : (e.getLsbD n && k.getLsbD n) = (e'.getLsbD n && k.getLsbD n) := by
    rw [← BitVec.getLsbD_and, h, BitVec.getLsbD_and]
  rw [BitVec.getLsbD_and, BitVec.getLsbD_and]
  cases hk : k.getLsbD n with
  | false => simp
  | true =>
    have he : e.getLsbD n = e'.getLsbD n := by simpa [hk] using hbit
    rw [applyMask_getLsbD _ _ _ hn, BitVec.getLsbD_xor, applyMask_getLsbD _ _ _ hn, BitVec.getLsbD_xor, he]
    cases e'.getLsbD n <;> simp

/-! ### The effective write mask (R104) -/

theorem effectiveMask_outside_stage2 {u : Unlock} (hu : u ≠ .stage2) (d : Descriptor) :
    effectiveMask u d = d.wmask &&& ~~~ d.protmask := by
  cases u with
  | stage2 => exact absurd rfl hu
  | locked | stage1 => rfl

/-- No protected bit of the register is writable: it has none, or the block is not in Stage2 (R104). -/
def protectedBitsKept (u : Unlock) (d : Descriptor) : Prop :=
  d.protmask = 0#32 ∨ u ≠ .stage2

theorem effectiveMask_of_protectedBitsKept {u : Unlock} {d : Descriptor} (h : protectedBitsKept u d) :
    effectiveMask u d = d.wmask &&& ~~~ d.protmask := by
  obtain hp | hu := h
  · cases u <;> simp [effectiveMask, hp, and_fullMask]
  · exact effectiveMask_outside_stage2 hu d

/-- No bit outside the write mask is ever writable. -/
theorem effectiveMask_and_not_wmask (u : Unlock) (d : Descriptor) : effectiveMask u d &&& ~~~ d.wmask = 0#32 := by
  cases u with
  | stage2 => exact BitVec.and_not_self d.wmask
  | locked | stage1 =>
    rw [effectiveMask, BitVec.and_assoc, BitVec.and_comm (~~~ d.protmask), ← BitVec.and_assoc, BitVec.and_not_self]
    exact BitVec.zero_and

/-- Outside Stage2 no protected bit is writable. -/
theorem effectiveMask_and_protmask {u : Unlock} (hu : u ≠ .stage2) (d : Descriptor) :
    effectiveMask u d &&& d.protmask = 0#32 := by
  rw [effectiveMask_outside_stage2 hu, BitVec.and_assoc, BitVec.not_and_self]
  exact BitVec.and_zero

/-- Whatever the unlock state, the unprotected bits of the write mask are writable. -/
theorem effectiveMask_and_not_protmask (u : Unlock) (d : Descriptor) :
    effectiveMask u d &&& ~~~ d.protmask = d.wmask &&& ~~~ d.protmask := by
  cases u with
  | stage2 => rfl
  | locked | stage1 => rw [effectiveMask, BitVec.and_assoc, BitVec.and_self]

end Sys2Proof.Machine
end

section
/-! Bus writes (spec/41_bus_write.md R100 to R118): a write that passes the checks, the state it commits to, and which
bytes and cells it leaves. -/

namespace Sys2Proof.Machine

/-- The word a write at this address commits (R101 to R105). -/
abbrev writtenWord (s : State) (w : Width) (op : OpCode) (a v : Word) (d : Descriptor) : Word :=
  committedWord s w (laneOf s.cfg a) d op v

/-! ### The bytes of a word -/

/-- An address is its word's first byte and a lane (R41). -/
theorem eq_word_add_lane (a : Word) : a = (a &&& 0xFFFFFFFC#32) + BitVec.ofNat 32 (a.toNat % 4) := by
  have hword := and_wordMask_toNat a
  apply BitVec.eq_of_toNat_eq
  rw [BitVec.toNat_add, BitVec.toNat_ofNat, hword]
  omega

/-- A byte of the register's word in a lane the write accesses is one it stores to (R43). -/
theorem mem_storedBytes {d : Descriptor} {w : Width} {address b : Word} (hword : b &&& 0xFFFFFFFC#32 = d.base)
    (hlo : address.toNat % 4 ≤ b.toNat % 4) (hhi : b.toNat % 4 < address.toNat % 4 + widthBytes w) :
    b ∈ storedBytes d w address := by
  refine List.mem_map.mpr ⟨b.toNat % 4 - address.toNat % 4, List.mem_range.mpr (by omega), ?_⟩
  rw [Nat.add_sub_cancel' hlo, ← hword]
  exact (eq_word_add_lane b).symm

/-- Every byte of STAT's word is one of its four (R43). -/
theorem mem_statBytes {c : Config} {b : Word} (hword : b &&& 0xFFFFFFFC#32 = c.statOff) : b ∈ statBytes c := by
  refine List.mem_map.mpr ⟨b.toNat % 4, List.mem_range.mpr (by omega), ?_⟩
  rw [← hword]
  exact (eq_word_add_lane b).symm

/-- A bit of a byte, as a bit of its word (R43). -/
theorem byteAt_getLsbD (s : State) (b : Word) (n : Nat) :
    (byteAt s b).getLsbD n = (decide (n < 8) && (cell s (b &&& 0xFFFFFFFC#32)).getLsbD (8 * (b.toNat % 4) + n)) := by
  simp [byteAt]

theorem byteAt_congr {s t : State} {b : Word}
    (h : cell t (b &&& 0xFFFFFFFC#32) = cell s (b &&& 0xFFFFFFFC#32)) : byteAt t b = byteAt s b := by
  rw [byteAt, byteAt, h]

/-- A byte of the register's word that a write does not store to is as before (R43, R102). -/
theorem byteAt_of_committed {s t : State} (hc : wellFormedConfig s.cfg = true) {w : Width} {a v b : Word} {op : OpCode}
    {d : Descriptor} (hbase : cell t d.base = writtenWord s w op a v d)
    (hword : b &&& 0xFFFFFFFC#32 = d.base) (hb : b ∉ storedBytes d w a) : byteAt t b = byteAt s b := by
  refine BitVec.eq_of_getLsbD_eq fun n hn => ?_
  have hlane : (laneMask w (laneOf s.cfg a)).getLsbD (8 * (b.toNat % 4) + n) = false := by
    rw [laneMask_getLsbD _ _ (by omega), laneOf_toNat hc, decide_eq_false_iff_not]
    rintro ⟨hlo, hhi⟩
    exact hb (mem_storedBytes hword (by omega) (by omega))
  rw [byteAt_getLsbD, byteAt_getLsbD, hword, hbase, committedWord_getLsbD_outside s d op v (by omega) hlane]

/-! ### The unlock state (R150) -/

/-- A KEY register has no protected bits (R17). -/
theorem role_ne_key_of_protected {c : Config} (hc : wellFormedConfig c = true) {d : Descriptor}
    (hd : d ∈ c.descTable) (hp : d.protmask ≠ 0#32) : d.role ≠ .key := by
  intro hr
  have ⟨_, _, _, hrole⟩ := wf_descriptor hc hd
  simp only [roleOk, hr, Bool.and_eq_true, beq_iff_eq] at hrole
  obtain ⟨⟨⟨-, hprot⟩, -⟩, -⟩ := hrole
  exact hp hprot

/-- A write to a register with protected bits relocks (R150, R152). -/
theorem nextUnlock_protected {c : Config} (hc : wellFormedConfig c = true) {d : Descriptor} (hd : d ∈ c.descTable)
    (hp : d.protmask ≠ 0#32) (u : Unlock) (new : Word) : nextUnlock c u d new = .locked := by
  simp [nextUnlock, role_ne_key_of_protected hc hd hp, isProtected, hp]

/-- A write to an interrupt register leaves the unlock state: it is neither KEY nor protected (R17, R150). -/
theorem nextUnlock_interrupt {c : Config} (hc : wellFormedConfig c = true) {d : Descriptor} (hd : d ∈ c.descTable)
    (hq : isInterruptRole d.role = true) (u : Unlock) (new : Word) : nextUnlock c u d new = u := by
  obtain ⟨-, hprot, -⟩ := interrupt_register hc hd hq
  have hkey : d.role ≠ .key := by intro h; simp [h, isInterruptRole] at hq
  have hrswrst : d.role ≠ .rswrst := by intro h; simp [h, isInterruptRole] at hq
  simp [nextUnlock, isProtected, hkey, hrswrst, hprot]

/-- A write that resets the block is to a register with protected bits: the trigger bits are among them (R17, R154). -/
theorem protected_of_resetWrite {s : State} (hc : wellFormedConfig s.cfg = true) {d : Descriptor}
    (hd : d ∈ s.cfg.descTable) {new : Word} (h : resetWrite s d new) : d.protmask ≠ 0#32 := by
  intro hp
  obtain ⟨hr, -, htrigger⟩ := h
  have ⟨_, _, _, hrole⟩ := wf_descriptor hc hd
  simp only [roleOk, hr, Bool.and_eq_true, beq_iff_eq] at hrole
  obtain ⟨⟨-, hwmask⟩, hmask⟩ := hrole
  rw [← hwmask, hp] at hmask
  exact htrigger (by rw [← hmask]; simp)

/-! ### What a committed write leaves -/

/-- A write operation that passes every check: running, contained, of a mapped register that is not read-only (R100). -/
structure PerformedWrite (i : Instr) (s : State) (w : Width) (op : OpCode) (a v : Word) (d : Descriptor) : Prop where
  form : ∃ letter, writeForm i = some (w, letter, a, v)
  running : s.halted = false
  config : wellFormedConfig s.cfg = true
  memory : memoryWf s.mem
  contained : a.toNat % 4 + widthBytes w ≤ 4
  found : busLookup s.cfg a = some (d, op)
  writable : d.policy ≠ .ro

/-- What a write of `new` to the register `d` leaves in the registers, outside the reset case (R106, R130). -/
structure Committed (s t : State) (d : Descriptor) (new : Word) : Prop where
  cfg : t.cfg = s.cfg
  memory : memoryWf t.mem
  unlock : t.unlock = nextUnlock s.cfg s.unlock d new
  base : cell t d.base = new
  frame : ∀ o, o ≠ d.base → o ≠ s.cfg.statOff → cell t o = cell s o
  stat : cell t s.cfg.statOff = if isInterruptRole d.role then statWord s.cfg (scan t) else cell s s.cfg.statOff

/-- The state after a write to a register that is no interrupt register, outside the reset case (R106). -/
def quietWrite (s : State) (d : Descriptor) (new : Word) : State :=
  { setCell s d.base new with
    unlock := nextUnlock s.cfg s.unlock d new
    response := .okWrite
    events := hookEvents d.whook fun h => .writeHook h d.base (cell s d.base) new }

/-- The state after a write to an interrupt register: the commit and one arbitration (R106, R130). -/
def arbitratedWrite (s : State) (d : Descriptor) (new : Word) : State :=
  respond (arbitrate (setCell (openTransaction s) d.base new)) .okWrite

/-- What it changes: the register, STAT, the count, the latched level and the outputs (R106, R134). -/
theorem arbitratedWrite_eq (s : State) (d : Descriptor) (new : Word) :
    arbitratedWrite s d new =
      { s with
        mem := writeMemory (writeMemory s.mem d.base.toNat new) s.cfg.statOff.toNat
          (statWord s.cfg (scan (setCell (openTransaction s) d.base new)))
        arbCount := s.arbCount + 1
        coreIpl := signalled (scan (setCell (openTransaction s) d.base new))
        response := .okWrite
        events := arbEvents s.coreIpl (scan (setCell (openTransaction s) d.base new)) } := by
  rw [arbitratedWrite, arbitrate_eq]
  rfl

theorem committed_quietWrite {s : State} (hm : memoryWf s.mem) {d : Descriptor} (hq : isInterruptRole d.role = false)
    (hstat : d.base ≠ s.cfg.statOff) (new : Word) : Committed s (quietWrite s d new) d new := by
  have hcell : ∀ o, cell (quietWrite s d new) o = if o = d.base then new else cell s o :=
    fun o => cell_setCell hm d.base o new
  exact {
    cfg := rfl
    memory := writeMemory_wf hm _ _
    unlock := rfl
    base := by rw [hcell, if_pos rfl]
    frame := fun o ho _ => by rw [hcell, if_neg ho]
    stat := by rw [hcell, if_neg hstat.symm, hq]; rfl }

/-- The arbitration publishes what a scan of the committed cells finds: STAT is none of them (R134). -/
theorem scan_arbitratedWrite {s : State} (hc : wellFormedConfig s.cfg = true) (hm : memoryWf s.mem) (d : Descriptor)
    (new : Word) : scan (arbitratedWrite s d new) = scan (setCell (openTransaction s) d.base new) :=
  (scan_congr rfl rfl).trans
    (scan_arbitrate (s := setCell (openTransaction s) d.base new) hc (writeMemory_wf hm d.base.toNat new))

theorem committed_arbitratedWrite {s : State} (hc : wellFormedConfig s.cfg = true) (hm : memoryWf s.mem)
    {d : Descriptor} (hd : d ∈ s.cfg.descTable) (hq : isInterruptRole d.role = true)
    (hstat : d.base ≠ s.cfg.statOff) (new : Word) : Committed s (arbitratedWrite s d new) d new := by
  have hm' : memoryWf (setCell (openTransaction s) d.base new).mem := writeMemory_wf hm _ _
  have hcell : ∀ o, cell (arbitratedWrite s d new) o =
      if o = s.cfg.statOff then statWord s.cfg (scan (arbitratedWrite s d new))
      else if o = d.base then new else cell s o := by
    intro o
    rw [scan_arbitratedWrite hc hm]
    exact (arbitrate_cell hm' o).trans (by rw [cell_setCell (s := openTransaction s) hm]; rfl)
  exact {
    cfg := by rw [arbitratedWrite_eq]
    memory := by rw [arbitratedWrite_eq]; exact writeMemory_wf hm' _ _
    unlock := by rw [arbitratedWrite_eq, nextUnlock_interrupt hc hd hq]
    base := by rw [hcell, if_neg hstat, if_pos rfl]
    frame := fun o ho ho' => by rw [hcell, if_neg ho', if_neg ho]
    stat := by rw [hcell, if_pos rfl, hq]; rfl }

/-- A byte that is neither stored to nor in STAT is as before, and in STAT too when no arbitration follows (R106). -/
theorem Committed.byteAt_eq {s t : State} {w : Width} {a v b : Word} {op : OpCode} {d : Descriptor}
    (h : Committed s t d (writtenWord s w op a v d)) (hc : wellFormedConfig s.cfg = true)
    (hb : b ∉ storedBytes d w a) (hstat : isInterruptRole d.role = false ∨ b ∉ statBytes s.cfg) :
    byteAt t b = byteAt s b := by
  by_cases hword : b &&& 0xFFFFFFFC#32 = d.base
  · exact byteAt_of_committed hc h.base hword hb
  by_cases hpub : b &&& 0xFFFFFFFC#32 = s.cfg.statOff
  · obtain hq | hnot := hstat
    · exact byteAt_congr (by rw [hpub, h.stat, hq]; rfl)
    · exact absurd (mem_statBytes hpub) hnot
  · exact byteAt_congr (h.frame _ hword hpub)

/-! ### A write that passes the checks -/

section Performed
variable {i : Instr} {s t : State} {w : Width} {op op' : OpCode} {a v : Word} {d : Descriptor}

/-- A write that answers a next state, of a register that is not read-only, passed the checks (R100). -/
theorem performedWrite_of_next (hf : writeForm i = some (w, op', a, v)) (hc : wellFormedConfig s.cfg = true)
    (hm : memoryWf s.mem) (hl : busLookup s.cfg a = some (d, op)) (hp : d.policy ≠ .ro) (hrun : exec i s = .next t) :
    PerformedWrite i s w op a v d := by
  obtain ⟨hr, hcont, -⟩ := busWrite_next (exec_of_writeForm hf s ▸ hrun)
  exact ⟨⟨op', hf⟩, hr, hc, hm, (contained_laneOf hc w a).mp hcont, hl, hp⟩

namespace PerformedWrite

theorem mem_table (h : PerformedWrite i s w op a v d) : d ∈ s.cfg.descTable := mem_of_busLookup h.found

theorem base_ne_statOff (h : PerformedWrite i s w op a v d) : d.base ≠ s.cfg.statOff :=
  Machine.base_ne_statOff h.config h.mem_table (role_ne_stat_of_writable h.config h.mem_table h.writable)

/-- It runs the write stages on the committed word (R101 to R106). -/
theorem exec_eq (h : PerformedWrite i s w op a v d) :
    exec i s = .next (respond (finishWrite (openTransaction s) d (writtenWord s w op a v d)) .okWrite) := by
  obtain ⟨letter, hf⟩ := h.form
  rw [exec_of_writeForm hf, busWrite_found h.running ((contained_laneOf h.config w a).mpr h.contained) h.found,
    writeFound_eq h.writable]
  rfl

theorem exec_quiet (h : PerformedWrite i s w op a v d) (hq : isInterruptRole d.role = false)
    (hn : ¬ resetWrite s d (writtenWord s w op a v d)) :
    exec i s = .next (quietWrite s d (writtenWord s w op a v d)) := by
  rw [h.exec_eq, finishWrite_quiet (s := openTransaction s) hq hn]
  rfl

theorem exec_interrupt (h : PerformedWrite i s w op a v d) (hq : isInterruptRole d.role = true) :
    exec i s = .next (arbitratedWrite s d (writtenWord s w op a v d)) := by
  obtain ⟨-, -, hhook, -⟩ := interrupt_register h.config h.mem_table hq
  rw [h.exec_eq, finishWrite_interrupt hq hhook, openTransaction_cfg, nextUnlock_interrupt h.config h.mem_table hq]
  rfl

/-- A write that resets the block reports the request to the core (R154, R221). -/
theorem requestCpuReset_mem (h : PerformedWrite i s w op a v d) (hrun : exec i s = .next t)
    (hn : resetWrite s d (writtenWord s w op a v d)) : Event.requestCpuReset ∈ t.events := by
  rw [h.exec_eq, finishWrite_reset (s := openTransaction s) hn, fullReset_soft_eq] at hrun
  cases hrun
  simp

/-- Outside the reset case a performed write commits its word, whatever the register's role. -/
theorem committed (h : PerformedWrite i s w op a v d) (hn : ¬ resetWrite s d (writtenWord s w op a v d))
    (hrun : exec i s = .next t) : Committed s t d (writtenWord s w op a v d) := by
  cases hq : isInterruptRole d.role with
  | false =>
    rw [h.exec_quiet hq hn] at hrun
    cases hrun
    exact committed_quietWrite h.memory hq h.base_ne_statOff _
  | true =>
    rw [h.exec_interrupt hq] at hrun
    cases hrun
    exact committed_arbitratedWrite h.config h.memory h.mem_table hq h.base_ne_statOff _

end PerformedWrite

end Performed

end Sys2Proof.Machine
end

section
/-! The statements about bus writes (spec/41_bus_write.md R100 to R118), from the state a performed write leaves. -/

namespace Sys2Proof.Machine

/-- The word an operation gives before the write mask is applied, its lanes by address (R102, R103). -/
def candidate (op : OpCode) (old v : Word) (w : Width) (k : Nat) : Word :=
  match op with
  | .assign => (old &&& ~~~ lanesMask w k) ||| laneOperand v w k
  | .clr => old &&& ~~~ laneOperand v w k
  | .set => old ||| laneOperand v w k
  | .inv => old ^^^ laneOperand v w k

section Performed
variable {i : Instr} {s : State} {w : Width} {op : OpCode} {a v : Word} {d : Descriptor}

namespace PerformedWrite

/-- The written word: the candidate's bits under the mask, the old ones elsewhere (R101 to R105). -/
theorem writtenWord_eq (h : PerformedWrite i s w op a v d) :
    writtenWord s w op a v d =
      applyMask (if s.unlock = .stage2 then d.wmask else d.wmask &&& ~~~ d.protmask)
        (candidate op (cell s d.base) v w (a.toNat % 4)) (cell s d.base) := by
  have hlane := laneOf_toNat h.config a
  rw [writtenWord, committedWord_eq _ _ _ _ _ _ (by rw [hlane]; exact h.contained), hlane]
  cases op <;> rfl

/-- A write to a register that is no interrupt register, outside the reset case (R106). -/
theorem quietCommit (h : PerformedWrite i s w op a v d) (hq : isInterruptRole d.role = false) {new : Word}
    (hnew : writtenWord s w op a v d = new) (hn : ¬ resetWrite s d new) :
    ∃ t, exec i s = .next t ∧ quietCommit s t d w a new := by
  subst hnew
  have hcom := committed_quietWrite h.memory hq h.base_ne_statOff (writtenWord s w op a v d)
  exact ⟨_, h.exec_quiet hq hn, ⟨rfl, rfl, rfl, rfl⟩, rfl, hcom.base,
    fun b hb => hcom.byteAt_eq h.config hb (Or.inl hq), rfl, rfl, rfl, rfl⟩

/-- A write to an interrupt register (R106, R130). -/
theorem arbitratedCommit (h : PerformedWrite i s w op a v d) (hq : isInterruptRole d.role = true) {new : Word}
    (hnew : writtenWord s w op a v d = new) :
    ∃ t, exec i s = .next t ∧ arbitratedCommit s t d w a new := by
  subst hnew
  have hcom : Committed s (arbitratedWrite s d (writtenWord s w op a v d)) d (writtenWord s w op a v d) :=
    committed_arbitratedWrite h.config h.memory h.mem_table hq h.base_ne_statOff _
  have hscan := scan_arbitratedWrite h.config h.memory d (writtenWord s w op a v d)
  have heq := arbitratedWrite_eq s d (writtenWord s w op a v d)
  refine ⟨_, h.exec_interrupt hq, ⟨hcom.cfg, by rw [heq], by rw [heq], by rw [heq]⟩, rfl, hcom.base,
    fun b hb hstat => hcom.byteAt_eq h.config hb (Or.inr hstat), by rw [heq], by rw [heq], ?_, ?_, ?_⟩
  · rw [hcom.stat, if_pos hq]
  · rw [hscan, heq]
  · rw [hscan, heq]

end PerformedWrite
end Performed

/-- Settles O15: a performed write through the assign view. -/
theorem assignWriteCommits : Obligations.AssignWriteCommits := by
  intro i s w a v d hf hr hc hm hcont hl hp hq old m eff new hn
  have h : PerformedWrite i s w .assign a v d := ⟨⟨_, hf⟩, hr, hc, hm, hcont, hl, hp⟩
  exact h.quietCommit hq h.writtenWord_eq hn

/-- Settles O16: a performed write through the CLR view. -/
theorem clearWriteCommits : Obligations.ClearWriteCommits := by
  intro i s w a v d hf hr hc hm hcont hl hp hq old eff new hn
  have h : PerformedWrite i s w .clr a v d := ⟨⟨_, hf⟩, hr, hc, hm, hcont, hl, hp⟩
  exact h.quietCommit hq h.writtenWord_eq hn

/-- Settles O17: a performed write through the SET view. -/
theorem setWriteCommits : Obligations.SetWriteCommits := by
  intro i s w a v d hf hr hc hm hcont hl hp hq old eff new hn
  have h : PerformedWrite i s w .set a v d := ⟨⟨_, hf⟩, hr, hc, hm, hcont, hl, hp⟩
  exact h.quietCommit hq h.writtenWord_eq hn

/-- Settles O18: a performed write through the INV view. -/
theorem invertWriteCommits : Obligations.InvertWriteCommits := by
  intro i s w a v d hf hr hc hm hcont hl hp hq old eff new hn
  have h : PerformedWrite i s w .inv a v d := ⟨⟨_, hf⟩, hr, hc, hm, hcont, hl, hp⟩
  exact h.quietCommit hq h.writtenWord_eq hn

/-- Settles O19: an interrupt register is read-write and unprotected, so the write is performed under the whole write
mask. -/
theorem interruptRegisterWriteArbitrates : Obligations.InterruptRegisterWriteArbitrates := by
  intro i s w op a v d hf hr hc hm hcont hl hq old m cand
  obtain ⟨hrw, hprot, -⟩ := interrupt_register hc (mem_of_busLookup hl) hq
  have h : PerformedWrite i s w op a v d := ⟨⟨_, hf⟩, hr, hc, hm, hcont, hl, by simp [hrw]⟩
  have hword : writtenWord s w op a v d = applyMask d.wmask cand old := by
    have hcand : cand = candidate op old v w (a.toNat % 4) := by cases op <;> rfl
    rw [h.writtenWord_eq, hcand]
    simp [hprot, and_fullMask, old]
  exact h.arbitratedCommit hq hword

/-- Settles O20: the four checks of R191, in their order. -/
theorem writeChecks : Obligations.WriteChecks := by
  intro i s w op a v hf hc
  have hi : isAccess i w op a .write := Or.inr ⟨v, hf, rfl⟩
  exact ⟨access_halted hi, fun hr hcont => access_uncontained hi hr hc hcont,
    fun hr hcont hl => access_unmapped hi hr hc hcont hl,
    fun d op' hr hcont hl hp => access_violating hi hr hc hcont hl ((accessViolates_write d op').mpr hp)⟩

/-- A dropped write leaves the Register File (R100, R187). -/
theorem cell_of_dropped {i : Instr} {s t : State} {w : Width} {op op' : OpCode} {a v : Word} {d : Descriptor}
    (hf : writeForm i = some (w, op', a, v)) (hl : busLookup s.cfg a = some (d, op)) (hp : d.policy = .ro)
    (hrun : exec i s = .next t) (o : Word) : cell t o = cell s o := by
  obtain ⟨-, -, ⟨hnone, -⟩ | ⟨e, op'', hfound, rfl⟩⟩ := busWrite_next (exec_of_writeForm hf s ▸ hrun)
  · simp [hnone] at hl
  obtain ⟨rfl, rfl⟩ : d = e ∧ op = op'' := by simpa [hl] using hfound
  simp only [writeFound, hp]
  rfl

/-- Settles O21: a read-only register keeps its word; any other has the written word, which keeps what is outside the
effective mask. -/
theorem writeMaskIsRespected : Obligations.WriteMaskIsRespected := by
  intro i s t w op op' a v d hf hc hm hl hrun hno
  by_cases hp : d.policy = .ro
  · have hcell : cell t d.base = cell s d.base := cell_of_dropped hf hl hp hrun _
    exact ⟨by rw [hcell], fun _ => by rw [hcell]⟩
  have h := performedWrite_of_next hf hc hm hl hp hrun
  have hcom := h.committed (fun hn => hno (h.requestCpuReset_mem hrun hn)) hrun
  rw [hcom.base]
  exact ⟨applyMask_and_of_disjoint (effectiveMask_and_not_wmask _ d) _ _,
    fun hu => applyMask_and_of_disjoint (effectiveMask_and_protmask hu d) _ _⟩

/-! ### The same invert twice (R116 to R118, R152) -/

/-- The word of the second of two inverts, on the bits both may write alike. -/
theorem writtenWord_invert_twice {s t : State} {w : Width} {a v k : Word} {d : Descriptor} (hcfg : t.cfg = s.cfg)
    (hcell : cell t d.base = writtenWord s w .inv a v d)
    (hk : effectiveMask s.unlock d &&& k = effectiveMask t.unlock d &&& k) :
    writtenWord t w .inv a v d &&& k = cell s d.base &&& k := by
  have hsecond : writtenWord t w .inv a v d = applyMask (effectiveMask t.unlock d)
      (writtenWord s w .inv a v d ^^^ opnd v w (laneOf s.cfg a)) (writtenWord s w .inv a v d) := by
    rw [writtenWord, committedWord, hcell, hcfg]
    rfl
  rw [hsecond]
  exact applyMask_invert_twice hk _ _

section InvertTwice
variable {i : Instr} {s t u : State} {w : Width} {a v : Word} {d : Descriptor}

/-- Where no protected bit is writable no word resets the block (R17, R154). -/
theorem not_resetWrite_of_protectedBitsKept (hc : wellFormedConfig s.cfg = true) (hd : d ∈ s.cfg.descTable)
    (h : protectedBitsKept s.unlock d) (new : Word) : ¬ resetWrite s d new := by
  intro hn
  have ⟨_, hstage2, _⟩ := hn
  obtain hp | hu := h
  · exact protected_of_resetWrite hc hd hn hp
  · exact hu hstage2

/-- After a committed write no protected bit is writable: the write relocked (R152). -/
theorem Committed.protectedBitsKept {new : Word} (h : Committed s t d new) (hc : wellFormedConfig s.cfg = true)
    (hd : d ∈ s.cfg.descTable) : Machine.protectedBitsKept t.unlock d := by
  by_cases hp : d.protmask = 0#32
  · exact Or.inl hp
  · right
    rw [h.unlock, nextUnlock_protected hc hd hp]
    nofun

/-- Two committed writes to the same register: what both leave alone is as it was. -/
theorem Committed.frame_twice {n1 n2 : Word} (h1 : Committed s t d n1) (h2 : Committed t u d n2) {o : Word}
    (ho : o ≠ d.base) (hstat : o ≠ s.cfg.statOff) : cell u o = cell s o := by
  rw [h2.frame o ho (h1.cfg ▸ hstat), h1.frame o ho hstat]

/-- Without an arbitration STAT is as it was too. -/
theorem Committed.stat_twice {n1 n2 : Word} (h1 : Committed s t d n1) (h2 : Committed t u d n2)
    (hq : isInterruptRole d.role = false) : cell u s.cfg.statOff = cell s s.cfg.statOff := by
  have h2stat := h2.stat
  have h1stat := h1.stat
  rw [h1.cfg, hq] at h2stat
  rw [hq] at h1stat
  exact h2stat.trans h1stat

/-- Cells restored give the same scan, so the second arbitration publishes what a consistent STAT held (R31). -/
theorem Committed.stat_of_consistent {n1 n2 : Word} (hc : wellFormedConfig s.cfg = true)
    (h1 : Committed s t d n1) (h2 : Committed t u d n2) (hq : isInterruptRole d.role = true)
    (hcells : ∀ o, o ≠ s.cfg.statOff → cell u o = cell s o) (hcons : consistent s) :
    cell u s.cfg.statOff = cell s s.cfg.statOff := by
  have hscan : scan u = scan s := by
    refine scan_eq_of_sources (h2.cfg.trans h1.cfg) (scan_eq_of_cells hc (h2.cfg.trans h1.cfg) fun e he hqe => ?_)
    refine hcells _ (base_ne_statOff hc he ?_)
    intro hr
    rw [hr] at hqe
    cases hqe
  have h2stat := h2.stat
  rw [h1.cfg, if_pos hq, hscan] at h2stat
  exact h2stat.trans hcons.1.symm

/-- The operation run again passes the checks again, when it answers a next state. -/
theorem PerformedWrite.again {op : OpCode} {new : Word} (h : PerformedWrite i s w op a v d) (hcom : Committed s t d new)
    (hrun : exec i t = .next u) : PerformedWrite i t w op a v d := by
  obtain ⟨letter, hf⟩ := h.form
  exact performedWrite_of_next hf (hcom.cfg ▸ h.config) hcom.memory (hcom.cfg ▸ h.found) h.writable hrun

/-- The second of two committed writes cannot reset the block, so it commits too. -/
theorem PerformedWrite.committed_again {op : OpCode} {new : Word} (h : PerformedWrite i s w op a v d)
    (hcom : Committed s t d new) (hrun : exec i t = .next u) : Committed t u d (writtenWord t w op a v d) := by
  have h' := h.again hcom hrun
  exact h'.committed (not_resetWrite_of_protectedBitsKept h'.config h'.mem_table
    (hcom.protectedBitsKept h.config h.mem_table) _) hrun

/-- Where no protected bit is writable both inverts have the same mask, and the second undoes the first. -/
theorem cell_invert_twice (h : PerformedWrite i s w .inv a v d) (h1 : Committed s t d (writtenWord s w .inv a v d))
    (h2 : Committed t u d (writtenWord t w .inv a v d)) (hkept : protectedBitsKept s.unlock d) :
    cell u d.base = cell s d.base := by
  have hmask : effectiveMask s.unlock d = effectiveMask t.unlock d := by
    rw [effectiveMask_of_protectedBitsKept hkept,
      effectiveMask_of_protectedBitsKept (h1.protectedBitsKept h.config h.mem_table)]
  have hbits := writtenWord_invert_twice (k := BitVec.allOnes 32) h1.cfg h1.base (by rw [hmask])
  rwa [BitVec.and_allOnes, BitVec.and_allOnes, ← h2.base] at hbits

/-- Two inverts where no protected bit is writable. -/
theorem invert_twice_kept (h : PerformedWrite i s w .inv a v d) (ht : exec i s = .next t) (hu : exec i t = .next u)
    (hkept : protectedBitsKept s.unlock d) :
    (∀ o, o ≠ s.cfg.statOff → cell u o = cell s o) ∧
    ((isInterruptRole d.role = false ∨ consistent s) → cell u s.cfg.statOff = cell s s.cfg.statOff) := by
  have h1 := h.committed (not_resetWrite_of_protectedBitsKept h.config h.mem_table hkept _) ht
  have h2 := h.committed_again h1 hu
  have hcells : ∀ o, o ≠ s.cfg.statOff → cell u o = cell s o := by
    intro o ho
    by_cases hbase : o = d.base
    · rw [hbase, cell_invert_twice h h1 h2 hkept]
    · exact h1.frame_twice h2 hbase ho
  refine ⟨hcells, fun hstat => ?_⟩
  cases hq : isInterruptRole d.role with
  | false => exact h1.stat_twice h2 hq
  | true =>
    have hcons : consistent s := hstat.resolve_left (by simp [hq])
    exact h1.stat_of_consistent h.config h2 hq hcells hcons

/-- Two inverts of a register with protected bits, the first in Stage2: the first relocks (R152). -/
theorem invert_twice_relocked (h : PerformedWrite i s w .inv a v d) (ht : exec i s = .next t)
    (hu : exec i t = .next u) (hp : d.protmask ≠ 0#32) (hno : Event.requestCpuReset ∉ t.events) :
    cell u d.base &&& ~~~ d.protmask = cell s d.base &&& ~~~ d.protmask ∧
    cell u d.base &&& d.protmask = cell t d.base &&& d.protmask ∧
    ∀ o, o ≠ d.base → cell u o = cell s o := by
  have h1 := h.committed (fun hn => hno (h.requestCpuReset_mem ht hn)) ht
  have h2 := h.committed_again h1 hu
  have hlocked : t.unlock ≠ .stage2 := (h1.protectedBitsKept h.config h.mem_table).resolve_left hp
  have hq : isInterruptRole d.role = false := by
    cases hq : isInterruptRole d.role with
    | false => rfl
    | true =>
      obtain ⟨-, hprot, -⟩ := interrupt_register h.config h.mem_table hq
      exact absurd hprot hp
  refine ⟨?_, ?_, fun o ho => ?_⟩
  · rw [h2.base]
    exact writtenWord_invert_twice h1.cfg h1.base (by simp only [effectiveMask_and_not_protmask])
  · rw [h2.base]
    exact applyMask_and_of_disjoint (effectiveMask_and_protmask hlocked d) _ _
  · by_cases hstat : o = s.cfg.statOff
    · rw [hstat, h1.stat_twice h2 hq]
    · exact h1.frame_twice h2 ho hstat

end InvertTwice

/-- Settles O23: the two cases of the mask of the first invert. -/
theorem invertTwiceRestores : Obligations.InvertTwiceRestores := by
  intro i s t u w a v d hf hc hm hl hp ht hu
  have h := performedWrite_of_next hf hc hm hl hp ht
  exact ⟨invert_twice_kept h ht hu, fun hprot _ hno => invert_twice_relocked h ht hu hprot hno⟩

end Sys2Proof.Machine
end

section
/-! The scan's result in every case (spec/42_arbiter.md R131): the winner, nothing, or the first armed source at level 0;
and that a winner exists where an armed source has a level. -/

namespace Sys2Proof.Machine

/-- A source that is not armed leaves the winner found (R131). -/
theorem scanSource_unarmed {s : State} {i : Nat} (h : armed s i = false) (r : ArbResult) : scanSource s r i = r := by
  simp [scanSource, h]

theorem scanUpTo_unarmed {s : State} {n : Nat} (h : ∀ j, j < n → armed s j = false) : scanUpTo s n = noWinner := by
  induction n with
  | zero => exact scanUpTo_zero s
  | succ n ih => rw [scanUpTo_succ, ih fun j hj => h j (by omega), scanSource_unarmed (h n (by omega))]

/-- A winner found stays while no later armed source is above it. -/
theorem scanUpTo_stays {s : State} {r : ArbResult} (hany : r.any = true) {n m : Nat} (hnm : n ≤ m)
    (hn : scanUpTo s n = r) (h : ∀ j, j < m → armed s j = true → level s j ≤ r.lvl) : scanUpTo s m = r := by
  induction m, hnm using Nat.le_induction with
  | base => exact hn
  | succ m _ ih =>
    rw [scanUpTo_succ, ih fun j hj => h j (by omega)]
    exact scanSource_keeps (h m (by omega)) (Or.inr hany)

/-- With ARB_LEVEL0_WINS true and every armed source at level 0, the first armed source wins at level 0 (R131). -/
theorem scan_of_first_armed {s : State} (hw : s.cfg.arbLevel0Wins = true)
    (h0 : ∀ i, i < s.cfg.numSources → armed s i = true → level s i = 0#3) {i : Nat} (hi : i < s.cfg.numSources)
    (ha : armed s i = true) (hfirst : ∀ j, j < i → armed s j = false) :
    scan s = { any := true, vec := i, lvl := 0#3 } := by
  have htaken : scanUpTo s (i + 1) = { any := true, vec := i, lvl := 0#3 } := by
    rw [scanUpTo_succ, scanUpTo_unarmed hfirst]
    simp [scanSource, ha, hw, noWinner, h0 i hi ha]
  exact scanUpTo_stays rfl hi htaken fun j hj haj => by simp [h0 j hj haj]

/-- Some source has the highest level of the armed ones, and the first of that level is R31's winner. -/
theorem exists_winner {s : State} {i : Nat} (hi : i < s.cfg.numSources) (ha : armed s i = true)
    (hl : level s i ≠ 0#3) : ∃ k, winner s k := by
  have hmem : ∀ j, j ∈ (Finset.range s.cfg.numSources).filter (fun j => armed s j = true) ↔
      j < s.cfg.numSources ∧ armed s j = true := by simp
  obtain ⟨m, hm, hmax⟩ := Finset.exists_max_image _ (fun j => (level s j).toNat) ⟨i, (hmem i).mpr ⟨hi, ha⟩⟩
  have htop : ∃ k, k < s.cfg.numSources ∧ armed s k = true ∧ level s k = level s m :=
    ⟨m, ((hmem m).mp hm).1, ((hmem m).mp hm).2, rfl⟩
  obtain ⟨hk, hka, hkl⟩ := Nat.find_spec htop
  refine ⟨Nat.find htop, hk, hka, fun hzero => hl ?_, fun j hj haj => ⟨?_, fun hjl => ?_⟩⟩
  · have hle := hmax i ((hmem i).mpr ⟨hi, ha⟩)
    rw [hzero] at hkl
    rw [← hkl] at hle
    bv_omega
  · rw [hkl]
    exact BitVec.le_def.mpr (hmax j ((hmem j).mpr ⟨hj, haj⟩))
  · exact Nat.find_min' htop ⟨hj, haj, hjl.trans hkl⟩

/-- Settles O34: a winner is found whatever ARB_LEVEL0_WINS is; without a level to win by, the parameter decides. -/
theorem scanFindsTheWinner : Obligations.ScanFindsTheWinner := by
  intro s
  refine ⟨fun i => scan_of_winner, fun h0 => ⟨fun hw => scan_eq_noWinner hw h0, fun hw => ⟨?_, ?_⟩⟩, ?_⟩
  · exact scanUpTo_unarmed
  · exact fun i hi ha hfirst => scan_of_first_armed hw h0 hi ha hfirst
  · rintro ⟨i, hi, ha, hl⟩
    exact exists_winner hi ha hl

end Sys2Proof.Machine
end

section
/-! The arbiter's own operations (spec/42_arbiter.md R132 to R138): ARB publishes and signals, and a second run has nothing
to say; RAISE and CLEAR write one flag bit and arbitrate, and the one undoes the other. -/

namespace Sys2Proof.Machine

/-! ### ARB (R132 to R134) -/

theorem exec_arb {s : State} (hr : s.halted = false) : exec .arb s = .next (arbitrate (openTransaction s)) := by
  simp only [exec, execArb, whenRunning_running hr]

/-- What an executed ARB leaves. -/
theorem arbitrate_openTransaction (s : State) :
    arbitrate (openTransaction s) =
      { s with
        mem := writeMemory s.mem s.cfg.statOff.toNat (statWord s.cfg (scan s))
        arbCount := s.arbCount + 1
        coreIpl := signalled (scan s)
        response := .none
        events := arbEvents s.coreIpl (scan s) } := by
  rw [arbitrate_eq, show scan (openTransaction s) = scan s from scan_congr rfl rfl]
  rfl

/-- A result that found a source is signalled as its level (R133). -/
theorem signalled_of_any {r : ArbResult} (ha : r.any = true) : signalled r = r.lvl := by
  simp [signalled, ha]

/-- A result that is none, or of level 0, is signalled as level 0 (R133). -/
theorem signalled_of_none {r : ArbResult} (h : r.any = false ∨ r.lvl = 0#3) : signalled r = 0#3 := by
  obtain h | h := h <;> simp [signalled, h]

theorem arbEvents_same {old : Level} {r : ArbResult} (h : signalled r = old) : arbEvents old r = [] :=
  if_pos h

theorem arbEvents_assert {old : Level} {r : ArbResult} (hne : signalled r ≠ old) (h0 : signalled r ≠ 0#3) :
    arbEvents old r = [.assertHardwareInterrupt (signalled r)] := by
  rw [arbEvents, if_neg hne, if_neg h0]

theorem arbEvents_deassert {old : Level} {r : ArbResult} (hne : old ≠ 0#3) (h0 : signalled r = 0#3) :
    arbEvents old r = [.deassertHardwareInterrupt] := by
  rw [arbEvents, if_neg (by rw [h0]; exact hne.symm), if_pos h0]

/-- Settles O36: the four cases of signalling are the cases of `arbEvents`. -/
theorem arbPublishesAndSignals : Obligations.ArbPublishesAndSignals := by
  intro s hr hm r
  refine ⟨_, exec_arb hr, ?_⟩
  have hcell : ∀ o, cell (arbitrate (openTransaction s)) o =
      if o = s.cfg.statOff then statWord s.cfg (scan (openTransaction s)) else cell s o :=
    arbitrate_cell (s := openTransaction s) hm
  rw [show scan (openTransaction s) = r from scan_congr rfl rfl] at hcell
  rw [arbitrate_openTransaction] at hcell ⊢
  refine ⟨⟨rfl, rfl, rfl, rfl⟩, rfl, rfl, rfl, hcell, fun ha h0 hne => ?_, fun ha h0 heq => ?_, fun h hne => ?_,
    fun h heq => ?_⟩
  · have hsig : signalled r = r.lvl := signalled_of_any ha
    exact ⟨hsig, hsig ▸ arbEvents_assert (hsig.symm ▸ hne) (hsig.symm ▸ h0)⟩
  · have hsig : signalled r = s.coreIpl := (signalled_of_any ha).trans heq
    exact ⟨hsig, arbEvents_same hsig⟩
  · exact ⟨signalled_of_none h, arbEvents_deassert hne (signalled_of_none h)⟩
  · have hsig : signalled r = 0#3 := signalled_of_none h
    exact ⟨hsig, arbEvents_same (hsig.trans heq.symm)⟩

/-- Writing the word a cell already reads as changes nothing: the canonical form is unique there. -/
theorem writeMemory_readMemory {m : Memory} (hm : memoryWf m) (o : Nat) : writeMemory m o (readMemory m o) = m := by
  induction m with
  | nil => rfl
  | cons p m ih =>
    obtain ⟨k, x⟩ := p
    have hlt := lt_of_memoryWf_cons hm
    have hx : x ≠ emptyCell := hm.2 (k, x) (by simp)
    rcases lt_trichotomy o k with hok | rfl | hok
    · have hempty : readMemory ((k, x) :: m) o = emptyCell := by
        refine readMemory_of_lt fun q hq => ?_
        rcases List.mem_cons.mp hq with rfl | hq
        · exact hok
        · exact hok.trans (hlt q hq)
      rw [hempty, writeMemory, if_pos hok, if_pos rfl]
    · rw [readMemory_cons, if_pos rfl, writeMemory, if_neg (lt_irrefl o), if_pos rfl, if_neg hx]
    · rw [readMemory_cons, if_neg hok.ne', writeMemory, if_neg hok.not_gt, if_neg hok.ne', ih (memoryWf_tail hm)]

/-- A state whose STAT and latched level already follow its registers is left alone by ARB, the count and the outputs
apart (R134). -/
theorem arbitrate_consistent {s : State} (hm : memoryWf s.mem) (h : consistent s) :
    arbitrate (openTransaction s) = { s with arbCount := s.arbCount + 1, response := .none, events := [] } := by
  obtain ⟨hstat, hipl⟩ := h
  have hmem : writeMemory s.mem s.cfg.statOff.toNat (statWord s.cfg (scan s)) = s.mem := by
    rw [← hstat]
    exact writeMemory_readMemory hm _
  rw [arbitrate_openTransaction, hmem, ← hipl, arbEvents_same hipl.symm]

/-- An arbitration makes STAT and the latched level follow the registers (R31, R134). -/
theorem consistent_arbitrate {s : State} (hc : wellFormedConfig s.cfg = true) (hm : memoryWf s.mem) :
    consistent (arbitrate s) := by
  refine ⟨?_, ?_⟩
  · rw [(arbitrate_keeps_inputs s).1, arbitrate_cell hm, if_pos rfl, scan_arbitrate hc hm]
  · rw [scan_arbitrate hc hm, arbitrate_eq]

theorem memoryWf_arbitrate {s : State} (hm : memoryWf s.mem) : memoryWf (arbitrate s).mem := by
  rw [arbitrate_eq]
  exact writeMemory_wf hm _ _

/-- Settles O37: the first ARB leaves STAT and the level consistent, so the second finds nothing to change. -/
theorem secondArbIsQuiet : Obligations.SecondArbIsQuiet := by
  intro s t hc hm hrun
  obtain ⟨hr, rfl⟩ := arb_next hrun
  have hquiet := arbitrate_consistent (memoryWf_arbitrate (s := openTransaction s) hm)
    (consistent_arbitrate (s := openTransaction s) hc hm)
  rw [exec_arb (by simpa using hr), hquiet, arbitrate_openTransaction]

/-! ### RAISE and CLEAR (R135 to R138) -/

section Bank
variable {s : State} {i : Nat} {f : Word → Word}

/-- The state after a changed flag bank: the bank of source `i` updated by `f`, and one arbitration. -/
def updateFlagBank (s : State) (i : Nat) (f : Word → Word) : State :=
  arbitrate (setCell (openTransaction s) (ifsOffset s.cfg (i / 32)) (f (cell s (ifsOffset s.cfg (i / 32)))))

/-- RAISE of a source of the block (R135). -/
theorem exec_raise {id : Word} (hr : s.halted = false) (hid : id.toNat < s.cfg.numSources) :
    exec (.raise id) s =
      if flag s id.toNat then .next (openTransaction s)
      else .next (updateFlagBank s id.toNat fun x => x ||| sourceBit id.toNat) := by
  simp only [exec, execRaise, whenRunning_running hr]
  exact if_pos hid

/-- CLEAR of a source of the block (R136). -/
theorem exec_clear {id : Word} (hr : s.halted = false) (hid : id.toNat < s.cfg.numSources) :
    exec (.clear id) s =
      if flag s id.toNat then .next (updateFlagBank s id.toNat fun x => x &&& ~~~ sourceBit id.toNat)
      else .next (openTransaction s) := by
  simp only [exec, execClear, whenRunning_running hr]
  exact if_pos hid

/-- The bank's cell is updated, every other cell but STAT's is as before. -/
theorem cell_updateFlagBank (hm : memoryWf s.mem) {o : Word} (ho : o ≠ s.cfg.statOff) :
    cell (updateFlagBank s i f) o = if o = ifsOffset s.cfg (i / 32) then f (cell s o) else cell s o := by
  have hm' : memoryWf (setCell (openTransaction s) (ifsOffset s.cfg (i / 32))
      (f (cell s (ifsOffset s.cfg (i / 32))))).mem := writeMemory_wf hm _ _
  have hcell := (arbitrate_cell hm' o).trans
    ((if_neg ho).trans (cell_setCell (s := openTransaction s) hm _ _ _))
  refine hcell.trans ?_
  split
  · next hbank => rw [hbank]
  · rfl

/-- What the arbitration of a changed bank leaves in STAT and beside the cells (R132 to R134). -/
structure Arbitrated (s t : State) : Prop where
  ports : samePorts s t
  unlock : t.unlock = s.unlock
  response : t.response = .none
  count : t.arbCount = s.arbCount + 1
  stat : cell t s.cfg.statOff = statWord s.cfg (scan t)
  level : t.coreIpl = signalled (scan t)
  events : t.events = arbEvents s.coreIpl (scan t)

theorem Arbitrated.consistent {t : State} (h : Arbitrated s t) : consistent t := by
  have ⟨hcfg, _⟩ := h.ports
  exact ⟨hcfg ▸ h.stat, h.level⟩

theorem arbitrated_updateFlagBank (hc : wellFormedConfig s.cfg = true) (hm : memoryWf s.mem) (i : Nat)
    (f : Word → Word) : Arbitrated s (updateFlagBank s i f) := by
  generalize hbank : setCell (openTransaction s) (ifsOffset s.cfg (i / 32)) (f (cell s (ifsOffset s.cfg (i / 32)))) = b
  have hb : b.cfg = s.cfg ∧ memoryWf b.mem := hbank ▸ ⟨rfl, writeMemory_wf hm _ _⟩
  obtain ⟨hstat, hipl⟩ := consistent_arbitrate (hb.1 ▸ hc) hb.2
  rw [(arbitrate_keeps_inputs b).1, hb.1] at hstat
  have hscan : scan (arbitrate b) = scan b := scan_arbitrate (hb.1 ▸ hc) hb.2
  rw [updateFlagBank, hbank]
  refine ⟨?_, ?_, ?_, ?_, hstat, hipl, ?_⟩
  on_goal 5 => rw [hscan]
  all_goals
    rw [arbitrate_eq, ← hbank]
    simp [samePorts]

end Bank

/-- Settles O38: the bank with the source's bit set, and the arbitration of it. -/
theorem raiseSetsTheFlag : Obligations.RaiseSetsTheFlag := by
  intro s id hr hc hm hid
  rw [exec_raise hr hid]
  refine ⟨fun hf => if_pos hf, fun hf => ⟨_, if_neg (by simp [hf]), ?_⟩⟩
  have h := arbitrated_updateFlagBank hc hm id.toNat fun x => x ||| sourceBit id.toNat
  exact ⟨h.ports, h.unlock, h.response, h.count, fun _ => cell_updateFlagBank hm, h.stat, h.level, h.events⟩

/-- Settles O39: the bank with the source's bit cleared, and the arbitration of it. -/
theorem clearClearsTheFlag : Obligations.ClearClearsTheFlag := by
  intro s id hr hc hm hid
  rw [exec_clear hr hid]
  refine ⟨fun hf => if_neg (by simp [hf]), fun hf => ⟨_, if_pos hf, ?_⟩⟩
  have h := arbitrated_updateFlagBank hc hm id.toNat fun x => x &&& ~~~ sourceBit id.toNat
  exact ⟨h.ports, h.unlock, h.response, h.count, fun _ => cell_updateFlagBank hm, h.stat, h.level, h.events⟩

/-- Settles O40: both look at the identifier first (R137). -/
theorem sourceOutOfRangeIsRefused : Obligations.SourceOutOfRangeIsRefused := by
  intro s id hr hid
  have hout : ¬ id.toNat < s.cfg.numSources := by omega
  simp only [exec, execRaise, execClear, whenRunning_running hr]
  exact ⟨if_neg hout, if_neg hout⟩

/-! ### The round trip (R138) -/

theorem sourceBit_getLsbD (i : Nat) {n : Nat} (hn : n < 32) : (sourceBit i).getLsbD n = decide (n = i % 32) := by
  rw [sourceBit, ← BitVec.twoPow_eq, BitVec.getLsbD_twoPow]
  simp [eq_comm]
  omega

/-- Setting and then clearing a bit that was clear restores the word. -/
theorem or_and_not_sourceBit {x : Word} {i : Nat} (h : x.getLsbD (i % 32) = false) :
    (x ||| sourceBit i) &&& ~~~ sourceBit i = x := by
  apply BitVec.eq_of_getLsbD_eq
  intro n hn
  simp only [BitVec.getLsbD_and, BitVec.getLsbD_or, BitVec.getLsbD_not, sourceBit_getLsbD i hn, hn, decide_true,
    Bool.true_and]
  by_cases hb : n = i % 32
  · subst hb
    simp [h]
  · simp [hb]

/-- Two consistent states whose cells agree but for STAT publish and latch alike (R31, R138). -/
theorem published_eq_of_cells {s u : State} (hc : wellFormedConfig s.cfg = true) (hcfg : u.cfg = s.cfg)
    (hcells : ∀ o, o ≠ s.cfg.statOff → cell u o = cell s o) (hs : consistent s) (hu : consistent u) :
    cell u s.cfg.statOff = cell s s.cfg.statOff ∧ u.coreIpl = s.coreIpl := by
  have hscan : scan u = scan s := by
    refine scan_eq_of_sources hcfg (scan_eq_of_cells hc hcfg fun d hd hq => hcells _ (base_ne_statOff hc hd ?_))
    intro hr
    rw [hr] at hq
    cases hq
  obtain ⟨hstat, hipl⟩ := hs
  obtain ⟨hstat', hipl'⟩ := hu
  rw [hcfg, hscan] at hstat'
  exact ⟨hstat'.trans hstat.symm, by rw [hipl', hipl, hscan]⟩

section RoundTrip
variable {s t u : State} {id : Word}

/-- A RAISE that answers a next state, of a source that was not flagged, updates its bank. -/
theorem raise_unflagged (ht : exec (.raise id) s = .next t) (hf : flag s id.toNat = false) :
    id.toNat < s.cfg.numSources ∧ t = updateFlagBank s id.toNat fun x => x ||| sourceBit id.toNat := by
  obtain ⟨-, hid, ⟨hf', -⟩ | ⟨-, rfl⟩⟩ := raise_next ht
  · simp [hf] at hf'
  · exact ⟨hid, rfl⟩

/-- A CLEAR that answers a next state, of a flagged source, updates its bank. -/
theorem clear_flagged (hu : exec (.clear id) t = .next u) (hf : flag t id.toNat = true) :
    u = updateFlagBank t id.toNat fun x => x &&& ~~~ sourceBit id.toNat := by
  obtain ⟨-, -, ⟨hf', -⟩ | ⟨-, rfl⟩⟩ := clear_next hu
  · simp [hf] at hf'
  · rfl

/-- A flag bank is not STAT (R16 item 3, R17). -/
theorem ifsOffset_ne_statOff (hc : wellFormedConfig s.cfg = true) {i : Nat} (hi : i < s.cfg.numSources) :
    ifsOffset s.cfg (i / 32) ≠ s.cfg.statOff := by
  obtain ⟨d, hd, hrole, hbase⟩ := exists_ifs hc hi
  exact hbase ▸ base_ne_statOff hc hd (by simp [hrole])

end RoundTrip

/-- Settles O41: the two bank updates cancel, and what is published follows the cells. -/
theorem raiseThenClearRoundTrip : Obligations.RaiseThenClearRoundTrip := by
  intro s t u id hinv hf ht hu
  have ⟨hc, hm, _, hcons⟩ := hinv
  obtain ⟨hid, hraised⟩ := raise_unflagged ht hf
  have hraise : Arbitrated s t := hraised ▸ arbitrated_updateFlagBank hc hm _ _
  have ⟨htcfg, _⟩ := hraise.ports
  have ⟨htc, htm, _⟩ := exec_invariant hinv ht
  have htcell : ∀ o, o ≠ s.cfg.statOff → cell t o =
      if o = ifsOffset s.cfg (id.toNat / 32) then cell s o ||| sourceBit id.toNat else cell s o := by
    intro o ho
    rw [hraised, cell_updateFlagBank hm ho]
  have hset : flag t id.toNat = true := by
    rw [flag, htcfg, htcell _ (ifsOffset_ne_statOff hc hid), if_pos rfl, BitVec.getLsbD_or,
      sourceBit_getLsbD _ (by omega)]
    simp
  have hcleared := clear_flagged hu hset
  have hclear : Arbitrated t u := hcleared ▸ arbitrated_updateFlagBank htc htm _ _
  have ⟨hucfg, _⟩ := hclear.ports
  have hcells : ∀ o, o ≠ s.cfg.statOff → cell u o = cell s o := by
    intro o ho
    rw [hcleared, cell_updateFlagBank htm (htcfg ▸ ho), htcfg, htcell o ho]
    split
    · next hbank => exact or_and_not_sourceBit (hbank ▸ hf)
    · rfl
  obtain ⟨hstat, hipl⟩ := published_eq_of_cells hc (hucfg.trans htcfg) hcells hcons hclear.consistent
  refine ⟨fun o => ?_, hipl, by rw [hclear.count, hraise.count]⟩
  by_cases ho : o = s.cfg.statOff
  · rw [ho, hstat]
  · exact hcells o ho

end Sys2Proof.Machine
end

section
/-! When an arbitration runs (spec/42_arbiter.md R130) and what the core is told of it (R133, spec/44_peripheral_port.md
R176): each operation arbitrates not at all, once, or at the end of a reset. -/

namespace Sys2Proof.Machine

/-! ### The three effects an operation can have on the arbiter -/

/-- No event of the list tells the core of a level. -/
def NoAssert (es : List Event) : Prop :=
  ∀ l, Event.assertHardwareInterrupt l ∉ es

theorem noAssert_nil : NoAssert [] := fun _ => List.not_mem_nil

theorem noAssert_append {es fs : List Event} (he : NoAssert es) (hf : NoAssert fs) : NoAssert (es ++ fs) :=
  fun l h => (List.mem_append.mp h).elim (he l) (hf l)

/-- The events end with those of an arbitration, from the level `old`, whose result is now latched (R133). -/
def SignalsFrom (old : Level) (t : State) : Prop :=
  ∃ es r, NoAssert es ∧ t.events = es ++ arbEvents old r ∧ t.coreIpl = signalled r

/-- No arbitration, no reset. -/
structure NoArbitration (s t : State) : Prop where
  count : t.arbCount = s.arbCount
  noAssert : NoAssert t.events
  noRequest : Event.requestCpuReset ∉ t.events

/-- One arbitration, over the level latched before. -/
structure OneArbitration (s t : State) : Prop where
  count : t.arbCount = s.arbCount + 1
  signals : SignalsFrom s.coreIpl t

/-- A reset, which latches level 0 before its arbitration (R221). -/
structure ResetArbitration (t : State) : Prop where
  periphReset : Event.periphReset ∈ t.events
  signals : SignalsFrom 0#3 t

/-- A soft reset, which counts its arbitration and asks for the core's reset (R221). -/
structure SoftReset (s t : State) : Prop extends ResetArbitration t where
  count : t.arbCount = s.arbCount + 1
  request : Event.requestCpuReset ∈ t.events

/-- An assert among an arbitration's events is of the signalled level, which is not 0 and not the old one (R133). -/
theorem of_assert_mem_arbEvents {old l : Level} {r : ArbResult}
    (h : Event.assertHardwareInterrupt l ∈ arbEvents old r) : signalled r = l ∧ l ≠ 0#3 ∧ old ≠ l := by
  unfold arbEvents at h
  split at h
  · cases h
  next hne =>
  split at h
  · simp at h
  next h0 =>
  obtain rfl : l = signalled r := by simpa using h
  exact ⟨rfl, h0, fun he => hne he.symm⟩

theorem SignalsFrom.of_assert_mem {old l : Level} {t : State} (h : SignalsFrom old t)
    (hl : Event.assertHardwareInterrupt l ∈ t.events) : t.coreIpl = l ∧ l ≠ 0#3 ∧ old ≠ l := by
  obtain ⟨es, r, hes, hev, hipl⟩ := h
  rw [hev] at hl
  rw [hipl]
  exact of_assert_mem_arbEvents ((List.mem_append.mp hl).resolve_left (hes l))

/-! ### Which updates have which effect -/

/-- An arbitration that follows updates of other state elements than the level and the count. -/
theorem oneArbitration_arbitrate {s b : State} (hcount : b.arbCount = s.arbCount) (hipl : b.coreIpl = s.coreIpl)
    (hb : NoAssert b.events) : OneArbitration s (arbitrate b) := by
  rw [arbitrate_eq]
  exact ⟨congrArg (· + 1) hcount, b.events, scan b, hb, by rw [hipl], rfl⟩

theorem resetArbitration_fullReset (k : ResetKind) {b : State} (hb : NoAssert b.events) :
    ResetArbitration (fullReset k b) := by
  cases k with
  | por =>
    rw [fullReset_por_eq]
    exact ⟨by simp, _, _, noAssert_append hb (by simp [NoAssert]), rfl, rfl⟩
  | soft =>
    rw [fullReset_soft_eq]
    exact ⟨by simp, _, _, noAssert_append hb (by simp [NoAssert]), rfl, rfl⟩

theorem softReset_fullReset {s b : State} (hcount : b.arbCount = s.arbCount) (hb : NoAssert b.events) :
    SoftReset s (fullReset .soft b) where
  toResetArbitration := resetArbitration_fullReset .soft hb
  count := by rw [fullReset_soft_eq, hcount]
  request := by simp [fullReset_soft_eq]

theorem noArbitration_openTransaction (s : State) : NoArbitration s (openTransaction s) :=
  ⟨rfl, noAssert_nil, List.not_mem_nil⟩

theorem noArbitration_raiseFatal (s : State) (a : Word) (dir : Dir) :
    NoArbitration s (raiseFatal (openTransaction s) a dir) := by
  refine ⟨rfl, ?_, ?_⟩ <;> simp [NoAssert]

/-- A read answers, and emits at most its log or its hook's event (R80 to R88). -/
theorem noArbitration_readFound (s : State) (w : Width) (l : Lane) (a : Word) (d : Descriptor) (op : OpCode) :
    NoArbitration s (readFound w l a d op (openTransaction s)) := by
  by_cases hv : readViolates d op
  · rw [readFound_violating hv]
    refine ⟨rfl, ?_, ?_⟩ <;> simp [violatingRead, NoAssert]
  obtain ⟨-, heq⟩ | ⟨v, heq⟩ := readFound_performed hv w l a (openTransaction s)
  · rw [heq, permittedRead_eq]
    have hcount : (applyReadSide (openTransaction s) d).arbCount = s.arbCount := by
      cases hside : d.rside <;> simp [applyReadSide, hside]
    refine ⟨hcount, ?_, ?_⟩ <;> cases d.rhook <;> simp [hookEvents, NoAssert]
  · rw [heq]
    refine ⟨rfl, ?_, ?_⟩ <;> simp [NoAssert]

theorem noAssert_writeHook (h : Option HookId) (b old new : Word) :
    NoAssert (hookEvents h fun id => .writeHook id b old new) := by
  cases h <;> simp [hookEvents, NoAssert]

theorem requestCpuReset_not_mem_writeHook (h : Option HookId) (b old new : Word) :
    Event.requestCpuReset ∉ hookEvents h fun id => .writeHook id b old new := by
  cases h <;> simp [hookEvents]

/-- Stage 4f of a write to an interrupt register, of any table: hook, commit, arbitration (R106). -/
theorem finishWrite_of_interrupt {s : State} {d : Descriptor} (hq : isInterruptRole d.role = true) (new : Word) :
    finishWrite s d new =
      arbitrate { setCell s d.base new with
        unlock := nextUnlock s.cfg s.unlock d new
        events := s.events ++ hookEvents d.whook fun h => .writeHook h d.base (cell s d.base) new } := by
  have htrigger : triggersReset s d new = false := by
    cases h : d.role <;> simp_all [isInterruptRole, triggersReset]
  simp [finishWrite, htrigger, commitWrite, arbitrateIfInterrupt, hq, emitHook_eq, setCell]

/-- The write stages: no arbitration, one for an interrupt register, or the soft reset; the hook's event comes first
(R106). -/
theorem finishWrite_effect (s : State) (d : Descriptor) (new : Word) :
    (isInterruptRole d.role = false ∧ NoArbitration s (finishWrite (openTransaction s) d new)) ∨
    (isInterruptRole d.role = true ∧ OneArbitration s (finishWrite (openTransaction s) d new)) ∨
    SoftReset s (finishWrite (openTransaction s) d new) := by
  have hhook := noAssert_writeHook d.whook d.base (cell s d.base) new
  by_cases hreset : resetWrite (openTransaction s) d new
  · right; right
    rw [finishWrite_reset hreset]
    exact softReset_fullReset rfl hhook
  cases hq : isInterruptRole d.role with
  | false =>
    rw [finishWrite_quiet hq hreset]
    exact Or.inl ⟨rfl, rfl, hhook, requestCpuReset_not_mem_writeHook _ _ _ _⟩
  | true =>
    rw [finishWrite_of_interrupt hq]
    exact Or.inr (Or.inl ⟨rfl, oneArbitration_arbitrate rfl rfl hhook⟩)

/-! ### Which operation has which effect -/

theorem busRead_noArbitration {w : Width} {a : Word} {s t : State} (h : busRead w a s = .next t) :
    NoArbitration s t := by
  obtain ⟨-, -, ⟨-, rfl⟩ | ⟨d, op, -, rfl⟩⟩ := busRead_next h
  · exact noArbitration_raiseFatal s a .read
  · exact noArbitration_readFound s w _ a d op

/-- A bus write to this address completes at no interrupt register: the word is unmapped, the register is no interrupt
register, or it drops writes. -/
def QuietTarget (c : Config) (a : Word) : Prop :=
  ∀ d op, busLookup c a = some (d, op) → isInterruptRole d.role = true → d.policy = .ro

/-- A bus write arbitrates once when it completes at an interrupt register, and resets when it triggers (R106, R130). -/
theorem busWrite_effect {w : Width} {a v : Word} {s t : State} (h : busWrite w a v s = .next t) :
    (QuietTarget s.cfg a ∧ NoArbitration s t) ∨
    ∃ d op, busLookup s.cfg a = some (d, op) ∧
      ((isInterruptRole d.role = true ∧ OneArbitration s t) ∨ SoftReset s t) := by
  obtain ⟨-, -, ⟨hl, rfl⟩ | ⟨d, op, hl, rfl⟩⟩ := busWrite_next h
  · exact Or.inl ⟨by simp [QuietTarget, hl], noArbitration_raiseFatal s a .write⟩
  have hquiet : (isInterruptRole d.role = true → d.policy = .ro) → QuietTarget s.cfg a := by
    intro hd e op' hfound
    obtain ⟨rfl, -⟩ : d = e ∧ op = op' := by simpa [hl] using hfound
    exact hd
  by_cases hp : d.policy = .ro
  · refine Or.inl ⟨hquiet fun _ => hp, ?_⟩
    simp only [writeFound, hp]
    refine ⟨rfl, ?_, ?_⟩ <;> simp [droppedWrite, NoAssert]
  rw [writeFound_eq hp, permittedWrite]
  rcases finishWrite_effect s d (committedWord (openTransaction s) w (laneOf s.cfg a) d op v) with
    ⟨hq, hcount, hassert, hreq⟩ | ⟨hq, hcount, hsig⟩ | ⟨⟨hperiph, hsig⟩, hcount, hreq⟩
  · exact Or.inl ⟨hquiet (by simp [hq]), hcount, hassert, hreq⟩
  · exact Or.inr ⟨d, op, hl, Or.inl ⟨hq, hcount, hsig⟩⟩
  · exact Or.inr ⟨d, op, hl, Or.inr ⟨⟨hperiph, hsig⟩, hcount, hreq⟩⟩

theorem raise_effect {id : Word} {s t : State} (h : exec (.raise id) s = .next t) :
    (flag s id.toNat = true ∧ NoArbitration s t) ∨ (flag s id.toNat = false ∧ OneArbitration s t) := by
  obtain ⟨-, -, ⟨hf, rfl⟩ | ⟨hf, rfl⟩⟩ := raise_next h
  · exact Or.inl ⟨hf, noArbitration_openTransaction s⟩
  · exact Or.inr ⟨hf, oneArbitration_arbitrate rfl rfl noAssert_nil⟩

theorem clear_effect {id : Word} {s t : State} (h : exec (.clear id) s = .next t) :
    (flag s id.toNat = false ∧ NoArbitration s t) ∨ (flag s id.toNat = true ∧ OneArbitration s t) := by
  obtain ⟨-, -, ⟨hf, rfl⟩ | ⟨hf, rfl⟩⟩ := clear_next h
  · exact Or.inl ⟨hf, noArbitration_openTransaction s⟩
  · exact Or.inr ⟨hf, oneArbitration_arbitrate rfl rfl noAssert_nil⟩

theorem push_effect {o v m : Word} {s t : State} (h : exec (.push o v m) s = .next t) : NoArbitration s t := by
  obtain ⟨-, d, -, -, rfl⟩ := push_next h
  exact ⟨rfl, noAssert_nil, List.not_mem_nil⟩

theorem arb_effect {s t : State} (h : exec .arb s = .next t) : OneArbitration s t := by
  obtain ⟨-, rfl⟩ := arb_next h
  exact oneArbitration_arbitrate rfl rfl noAssert_nil

/-! ### What the core is told (R133, R176) -/

/-- Every operation has one of the three effects. -/
theorem exec_effect {i : Instr} {s t : State} (h : exec i s = .next t) :
    NoArbitration s t ∨ OneArbitration s t ∨ ResetArbitration t := by
  rcases instr_forms i with ⟨w, op, a, hf⟩ | ⟨w, op, a, v, hf⟩ | ⟨id, rfl⟩ | ⟨id, rfl⟩ | ⟨o, v, m, rfl⟩ | rfl | rfl |
    ⟨k, rfl⟩
  · exact Or.inl (busRead_noArbitration (exec_of_readForm hf s ▸ h))
  · obtain ⟨-, hnone⟩ | ⟨d, op', -, ⟨-, hone⟩ | hreset⟩ := busWrite_effect (exec_of_writeForm hf s ▸ h)
    · exact Or.inl hnone
    · exact Or.inr (Or.inl hone)
    · exact Or.inr (Or.inr hreset.toResetArbitration)
  · obtain ⟨-, hnone⟩ | ⟨-, hone⟩ := raise_effect h
    · exact Or.inl hnone
    · exact Or.inr (Or.inl hone)
  · obtain ⟨-, hnone⟩ | ⟨-, hone⟩ := clear_effect h
    · exact Or.inl hnone
    · exact Or.inr (Or.inl hone)
  · exact Or.inl (push_effect h)
  · cases h
    exact Or.inr (Or.inr (resetArbitration_fullReset .por noAssert_nil))
  · exact Or.inr (Or.inl (arb_effect h))
  · obtain ⟨-, rfl⟩ := fullreset_next h
    exact Or.inr (Or.inr (resetArbitration_fullReset k noAssert_nil))

/-- Settles O43: an assert comes from the arbitration that ends the operation, over the level before it or, after a reset,
over level 0. -/
theorem assertOnlyOnChange : Obligations.AssertOnlyOnChange := by
  intro i s t l hrun hl
  rcases exec_effect hrun with hnone | hone | hreset
  · exact absurd hl (hnone.noAssert l)
  · obtain ⟨hipl, h0, hchange⟩ := hone.signals.of_assert_mem hl
    exact ⟨hipl, h0, Or.inl hchange⟩
  · obtain ⟨hipl, h0, -⟩ := hreset.signals.of_assert_mem hl
    exact ⟨hipl, h0, Or.inr hreset.periphReset⟩

/-! ### When an arbitration runs (R130) -/

/-- The operation and the registers it meets make it one of R130's points: ARB, a soft reset, a RAISE or CLEAR that changes
a flag, a write to an interrupt register, a write that resets. -/
def isArbitrationPoint (i : Instr) (s t : State) : Prop :=
  i = .arb ∨ i = .fullreset .soft ∨
  (∃ id, i = .raise id ∧ flag s id.toNat = false) ∨ (∃ id, i = .clear id ∧ flag s id.toNat = true) ∨
  (∃ w op a v d op', writeForm i = some (w, op, a, v) ∧ busLookup s.cfg a = some (d, op') ∧
    (isInterruptRole d.role = true ∨ Event.requestCpuReset ∈ t.events))

section Point
variable {i : Instr} {s t : State} {w : Width} {op : OpCode} {a v : Word}

theorem not_isArbitrationPoint_read (hf : readForm i = some (w, op, a)) : ¬ isArbitrationPoint i s t := by
  cases i <;> simp [readForm, isArbitrationPoint, writeForm] at hf ⊢

theorem isArbitrationPoint_write (hf : writeForm i = some (w, op, a, v)) :
    isArbitrationPoint i s t ↔ ∃ d op', busLookup s.cfg a = some (d, op') ∧
      (isInterruptRole d.role = true ∨ Event.requestCpuReset ∈ t.events) := by
  refine ⟨?_, fun ⟨d, op', h⟩ => Or.inr (Or.inr (Or.inr (Or.inr ⟨w, op, a, v, d, op', hf, h⟩)))⟩
  rintro (rfl | rfl | ⟨id, rfl, -⟩ | ⟨id, rfl, -⟩ | ⟨w', op', a', v', d, op'', hf', h⟩)
  · cases hf
  · cases hf
  · cases hf
  · cases hf
  · cases hf.symm.trans hf'
    exact ⟨d, op'', h⟩

theorem isArbitrationPoint_raise {id : Word} : isArbitrationPoint (.raise id) s t ↔ flag s id.toNat = false := by
  simp [isArbitrationPoint, writeForm]

theorem isArbitrationPoint_clear {id : Word} : isArbitrationPoint (.clear id) s t ↔ flag s id.toNat = true := by
  simp [isArbitrationPoint, writeForm]

theorem not_isArbitrationPoint_push {o m : Word} : ¬ isArbitrationPoint (.push o v m) s t := by
  simp [isArbitrationPoint, writeForm]

/-- A write at no such point: an interrupt register is read-write (R17), so a quiet target is none. -/
theorem not_isArbitrationPoint_quiet_write (hc : wellFormedConfig s.cfg = true) (hf : writeForm i = some (w, op, a, v))
    (hquiet : QuietTarget s.cfg a) (hnone : NoArbitration s t) : ¬ isArbitrationPoint i s t := by
  rw [isArbitrationPoint_write hf]
  rintro ⟨d, op', hl, hq | hreq⟩
  · obtain ⟨hrw, -⟩ := interrupt_register hc (mem_of_busLookup hl) hq
    simp [hquiet d op' hl hq] at hrw
  · exact hnone.noRequest hreq

/-- The count stays away from a point and goes up by one at a point. -/
theorem exec_counts (hc : wellFormedConfig s.cfg = true) (h : exec i s = .next t) (hpor : i ≠ .por)
    (hreset : i ≠ .fullreset .por) :
    (¬ isArbitrationPoint i s t ∧ t.arbCount = s.arbCount) ∨
    (isArbitrationPoint i s t ∧ t.arbCount = s.arbCount + 1) := by
  rcases instr_forms i with ⟨w, op, a, hf⟩ | ⟨w, op, a, v, hf⟩ | ⟨id, rfl⟩ | ⟨id, rfl⟩ | ⟨o, v, m, rfl⟩ | rfl | rfl |
    ⟨k, rfl⟩
  · exact Or.inl ⟨not_isArbitrationPoint_read hf, (busRead_noArbitration (exec_of_readForm hf s ▸ h)).count⟩
  · obtain ⟨hquiet, hnone⟩ | ⟨d, op', hl, hpoint⟩ := busWrite_effect (exec_of_writeForm hf s ▸ h)
    · exact Or.inl ⟨not_isArbitrationPoint_quiet_write hc hf hquiet hnone, hnone.count⟩
    · rw [isArbitrationPoint_write hf]
      obtain ⟨hq, hone⟩ | hsoft := hpoint
      · exact Or.inr ⟨⟨d, op', hl, Or.inl hq⟩, hone.count⟩
      · exact Or.inr ⟨⟨d, op', hl, Or.inr hsoft.request⟩, hsoft.count⟩
  · rw [isArbitrationPoint_raise]
    obtain ⟨hf, hnone⟩ | ⟨hf, hone⟩ := raise_effect h
    · exact Or.inl ⟨by simp [hf], hnone.count⟩
    · exact Or.inr ⟨hf, hone.count⟩
  · rw [isArbitrationPoint_clear]
    obtain ⟨hf, hnone⟩ | ⟨hf, hone⟩ := clear_effect h
    · exact Or.inl ⟨by simp [hf], hnone.count⟩
    · exact Or.inr ⟨hf, hone.count⟩
  · exact Or.inl ⟨not_isArbitrationPoint_push, (push_effect h).count⟩
  · exact absurd rfl hpor
  · exact Or.inr ⟨Or.inl rfl, (arb_effect h).count⟩
  · cases k with
    | por => exact absurd rfl hreset
    | soft =>
      obtain ⟨-, rfl⟩ := fullreset_next h
      have hsoft : SoftReset s (fullReset .soft (openTransaction s)) := softReset_fullReset rfl noAssert_nil
      exact Or.inr ⟨Or.inr (Or.inl rfl), hsoft.count⟩

end Point

/-- Settles O42: `isArbitrationPoint` is R130's list, and the count follows it. -/
theorem arbitrationPoints : Obligations.ArbitrationPoints := by
  intro i s t hc hrun hpor hreset
  change (t.arbCount = s.arbCount ∨ t.arbCount = s.arbCount + 1) ∧
    (t.arbCount = s.arbCount + 1 ↔ isArbitrationPoint i s t)
  obtain ⟨hpoint, hcount⟩ | ⟨hpoint, hcount⟩ := exec_counts hc hrun hpor hreset
  · exact ⟨Or.inl hcount, by simp [hcount, hpoint]⟩
  · exact ⟨Or.inr hcount, by simp [hcount, hpoint]⟩

end Sys2Proof.Machine
end

section
/-! The unlock machine (spec/43_unlock_reset.md R150 to R153, R155): which state each completed write leaves, what no other
transaction touches, and the silent violation. -/

namespace Sys2Proof.Machine

/-! ### The next unlock state (R150, R151) -/

/-- A write to KEY moves the state by the table of R151. -/
theorem nextUnlock_key {d : Descriptor} (hk : d.role = .key) (c : Config) (u : Unlock) (new : Word) :
    nextUnlock c u d new = keyTransition c u new := if_pos hk

theorem isProtected_iff (d : Descriptor) : isProtected d = true ↔ d.role = .rswrst ∨ d.protmask ≠ 0#32 := by
  simp [isProtected]

/-- A protected write relocks, from every state (R150, R152). -/
theorem nextUnlock_of_isProtected {d : Descriptor} (hk : d.role ≠ .key) (hp : isProtected d = true) (c : Config)
    (u : Unlock) (new : Word) : nextUnlock c u d new = .locked := by
  rw [nextUnlock, if_neg hk, if_pos hp]

/-- A register that is neither KEY nor protected does not take part in the unlock machine (R155). -/
def outsideUnlock (d : Descriptor) : Prop :=
  d.role ≠ .key ∧ d.role ≠ .rswrst ∧ d.protmask = 0#32

theorem nextUnlock_of_outsideUnlock {d : Descriptor} (h : outsideUnlock d) (c : Config) (u : Unlock) (new : Word) :
    nextUnlock c u d new = u := by
  obtain ⟨hk, hr, hp⟩ := h
  have hnot : ¬ isProtected d = true := by simp [isProtected_iff, hr, hp]
  rw [nextUnlock, if_neg hk, if_neg hnot]

/-- Settles O28: a write that did not reset the block committed its word, and `nextUnlock` of that word is the table. -/
theorem unlockFollowsTheTable : Obligations.UnlockFollowsTheTable := by
  intro i s t w op a v d hf hc hm hl hp hrun hno
  have h := performedWrite_of_next hf hc hm hl hp hrun
  have hcom := h.committed (fun hn => hno (h.requestCpuReset_mem hrun hn)) hrun
  have hnext : t.unlock = nextUnlock s.cfg s.unlock d (cell t d.base) := by rw [hcom.unlock, hcom.base]
  refine ⟨fun hk => ?_, fun hk hprot => ?_, fun hk hr hprot => ?_⟩
  · rw [hnext, nextUnlock_key hk]
    refine ⟨fun hu hw => ?_, fun hu hw => ?_, fun hu hw => ?_, fun hu hw => ?_, fun hu => ?_⟩
    all_goals simp only [hu, keyTransition]
    · exact if_pos hw
    · exact if_neg hw
    · exact if_pos hw
    · exact if_neg hw
  · rw [hnext, nextUnlock_of_isProtected hk ((isProtected_iff d).mpr hprot)]
  · rw [hnext, nextUnlock_of_outsideUnlock ⟨hk, hr, hprot⟩]

/-! ### What leaves the unlock state alone (R155) -/

@[simp] theorem arbitrate_unlock (s : State) : (arbitrate s).unlock = s.unlock := by
  rw [arbitrate_eq]

/-- A read cannot depend on the unlock state, so it hands back the one it found. -/
@[simp] theorem unlock_of_readFound (w : Width) (l : Lane) (a : Word) (d : Descriptor) (op : OpCode) (s : State) :
    (readFound w l a d op s).unlock = s.unlock :=
  (congrArg State.unlock (readFound_unlock w l a d op s s.unlock) :)

/-- Outside the reset case the write stages move the unlock state by `next_unlock`, for any table (R106). -/
theorem finishWrite_unlock {s : State} {d : Descriptor} {new : Word} (hn : ¬ resetWrite s d new) :
    (finishWrite s d new).unlock = nextUnlock s.cfg s.unlock d new := by
  cases hq : isInterruptRole d.role with
  | false => rw [finishWrite_quiet hq hn]
  | true => rw [finishWrite_of_interrupt hq, arbitrate_unlock]

/-- A write that is dropped, or that completes outside the unlock machine, leaves the unlock state. -/
theorem writeFound_keeps_unlock {d : Descriptor} (h : d.policy = .ro ∨ outsideUnlock d) (w : Width) (l : Lane)
    (a : Word) (op : OpCode) (v : Word) (s : State) : (writeFound w l a d op v s).unlock = s.unlock := by
  by_cases hp : d.policy = .ro
  · simp only [writeFound, hp]
    rfl
  have hout := h.resolve_left hp
  have ⟨_, hrswrst, _⟩ := hout
  have hn : ¬ resetWrite s d (committedWord s w l d op v) := fun ⟨hr, _⟩ => hrswrst hr
  rw [writeFound_eq hp, permittedWrite, respond_unlock, finishWrite_unlock hn, nextUnlock_of_outsideUnlock hout]

theorem busRead_keeps_unlock {w : Width} {a : Word} {s t : State} (h : busRead w a s = .next t) :
    t.unlock = s.unlock := by
  obtain ⟨-, -, ⟨-, rfl⟩ | ⟨d, op, -, rfl⟩⟩ := busRead_next h <;> simp

theorem busWrite_keeps_unlock {w : Width} {a v : Word} {s t : State} (h : busWrite w a v s = .next t)
    (hout : ∀ d op, busLookup s.cfg a = some (d, op) → d.policy = .ro ∨ outsideUnlock d) : t.unlock = s.unlock := by
  obtain ⟨-, -, ⟨-, rfl⟩ | ⟨d, op, hl, rfl⟩⟩ := busWrite_next h
  · rfl
  · rw [writeFound_keeps_unlock (hout d op hl), openTransaction_unlock]

/-- Settles O29: by cases on the operation, each from what it can do when it answers a next state. -/
theorem otherTransactionsKeepUnlock : Obligations.OtherTransactionsKeepUnlock := by
  intro i s t h hpor hreset hwrite
  rcases instr_forms i with ⟨w, op, a, hf⟩ | ⟨w, op, a, v, hf⟩ | ⟨id, rfl⟩ | ⟨id, rfl⟩ | ⟨o, v, m, rfl⟩ | rfl | rfl |
    ⟨k, rfl⟩
  · exact busRead_keeps_unlock (exec_of_readForm hf s ▸ h)
  · exact busWrite_keeps_unlock (exec_of_writeForm hf s ▸ h) fun d op' hl => hwrite w op a v d op' hf hl
  · obtain ⟨-, -, ⟨-, rfl⟩ | ⟨-, rfl⟩⟩ := raise_next h <;> simp [setFlag]
  · obtain ⟨-, -, ⟨-, rfl⟩ | ⟨-, rfl⟩⟩ := clear_next h <;> simp [clearFlag]
  · obtain ⟨-, d, -, -, rfl⟩ := push_next h
    simp
  · exact absurd rfl hpor
  · obtain ⟨-, rfl⟩ := arb_next h
    simp
  · exact absurd rfl (hreset k)

/-! ### The silent violation (R153) -/

/-- On bits its mask covers a write takes the candidate's (R105). -/
theorem applyMask_and_of_covered {eff k : Word} (h : eff &&& k = k) (cand old : Word) :
    applyMask eff cand old &&& k = cand &&& k := by
  refine BitVec.eq_of_getLsbD_eq fun n hn => ?_
  have hbit : (eff.getLsbD n && k.getLsbD n) = k.getLsbD n := by rw [← BitVec.getLsbD_and, h]
  rw [BitVec.getLsbD_and, BitVec.getLsbD_and, applyMask_getLsbD _ _ _ hn]
  cases hk : k.getLsbD n with
  | false => simp
  | true =>
    have he : eff.getLsbD n = true := by simpa [hk] using hbit
    rw [if_pos he]

/-- A protected register is neither KEY nor an interrupt register (R17). -/
theorem role_of_isProtected {c : Config} (hc : wellFormedConfig c = true) {d : Descriptor} (hd : d ∈ c.descTable)
    (hp : isProtected d = true) : d.role ≠ .key ∧ isInterruptRole d.role = false := by
  obtain hr | hmask := (isProtected_iff d).mp hp
  · simp [hr, isInterruptRole]
  · refine ⟨role_ne_key_of_protected hc hd hmask, Bool.eq_false_iff.mpr fun hq => ?_⟩
    obtain ⟨-, hprot, -⟩ := interrupt_register hc hd hq
    exact hmask hprot

/-- Settles O30: outside Stage2 the effective mask leaves out the protected bits, and the write commits under it. -/
theorem unlockViolationIsSilent : Obligations.UnlockViolationIsSilent := by
  intro i s w op a v d hf hr hc hm hcont hl hp hprot hu old m cand
  have h : PerformedWrite i s w op a v d := ⟨⟨_, hf⟩, hr, hc, hm, hcont, hl, hp⟩
  have hprot := (isProtected_iff d).mpr hprot
  obtain ⟨hk, hq⟩ := role_of_isProtected hc h.mem_table hprot
  have hword : writtenWord s w op a v d = applyMask (d.wmask &&& ~~~ d.protmask) cand old := by
    have hcand : cand = candidate op old v w (a.toNat % 4) := by cases op <;> rfl
    rw [h.writtenWord_eq, if_neg hu, hcand]
  have hmask : effectiveMask s.unlock d = d.wmask &&& ~~~ d.protmask := effectiveMask_outside_stage2 hu d
  obtain ⟨t, hrun, hcommit⟩ := h.quietCommit hq hword fun ⟨_, hstage2, _⟩ => hu hstage2
  obtain ⟨-, hok, hbase, -, hunlock, -, -, hevents⟩ := hcommit
  rw [nextUnlock_of_isProtected hk hprot] at hunlock
  refine ⟨t, hrun, hok, hunlock, ?_, ?_, ?_, hbase ▸ hevents⟩ <;> rw [hbase]
  · exact applyMask_and_of_disjoint (hmask ▸ effectiveMask_and_protmask hu d) _ _
  · exact applyMask_and_of_covered BitVec.and_self _ _
  · exact applyMask_and_of_disjoint (hmask ▸ effectiveMask_and_not_wmask s.unlock d) _ _

end Sys2Proof.Machine
end

section
/-! The soft reset (spec/43_unlock_reset.md R154, R157; spec/70_reset_and_hazards.md R221): the state a reset leaves, the
writes to RSWRST row by row, what alone asks the core for a reset, and the sequence from Locked. -/

namespace Sys2Proof.Machine

/-! ### The request to the core among the events (R176) -/

theorem requestCpuReset_not_mem_arbEvents (old : Level) (r : ArbResult) :
    Event.requestCpuReset ∉ arbEvents old r := by
  unfold arbEvents
  split
  · exact List.not_mem_nil
  split <;> simp

/-- An arbitration asks for no reset. -/
theorem requestCpuReset_mem_arbitrate (s : State) :
    Event.requestCpuReset ∈ (arbitrate s).events ↔ Event.requestCpuReset ∈ s.events := by
  simp [arbitrate_eq, requestCpuReset_not_mem_arbEvents]

/-- The write stages ask for a reset exactly when the write triggers one (R154). -/
theorem requestCpuReset_mem_finishWrite (s : State) (d : Descriptor) (new : Word) :
    Event.requestCpuReset ∈ (finishWrite (openTransaction s) d new).events ↔ resetWrite s d new := by
  have hhook := requestCpuReset_not_mem_writeHook d.whook d.base (cell s d.base) new
  by_cases hreset : resetWrite s d new
  · rw [finishWrite_reset (s := openTransaction s) hreset]
    simp [fullReset_soft_eq, hreset]
  simp only [hreset, iff_false]
  cases hq : isInterruptRole d.role with
  | false =>
    rw [finishWrite_quiet (s := openTransaction s) hq hreset]
    exact hhook
  | true =>
    rw [finishWrite_of_interrupt hq, requestCpuReset_mem_arbitrate]
    exact hhook

/-- A bus write that asks for a reset is performed, and triggers it (R154). -/
theorem resetWrite_of_requestCpuReset {w : Width} {a v : Word} {s t : State} (h : busWrite w a v s = .next t)
    (hreq : Event.requestCpuReset ∈ t.events) :
    ∃ d op, busLookup s.cfg a = some (d, op) ∧ d.policy ≠ .ro ∧ resetWrite s d (writtenWord s w op a v d) := by
  obtain ⟨-, -, ⟨-, rfl⟩ | ⟨d, op, hl, rfl⟩⟩ := busWrite_next h
  · simp at hreq
  by_cases hp : d.policy = .ro
  · simp [writeFound, hp, droppedWrite] at hreq
  · rw [writeFound_eq hp] at hreq
    exact ⟨d, op, hl, hp, (requestCpuReset_mem_finishWrite s d _).mp hreq⟩

/-- Of the transactions an agent can send only a bus write asks for a reset (R176). -/
theorem busWrite_of_requestCpuReset {i : Instr} {s t : State} (hagent : requestable i = true)
    (h : exec i s = .next t) (hreq : Event.requestCpuReset ∈ t.events) :
    ∃ w op a v, writeForm i = some (w, op, a, v) ∧ busWrite w a v s = .next t := by
  rcases instr_forms i with ⟨w, op, a, hf⟩ | ⟨w, op, a, v, hf⟩ | ⟨id, rfl⟩ | ⟨id, rfl⟩ | ⟨o, v, m, rfl⟩ | rfl | rfl |
    ⟨k, rfl⟩
  · exact absurd hreq (busRead_noArbitration (exec_of_readForm hf s ▸ h)).noRequest
  · exact ⟨w, op, a, v, hf, exec_of_writeForm hf s ▸ h⟩
  · obtain ⟨-, -, ⟨-, rfl⟩ | ⟨-, rfl⟩⟩ := raise_next h <;> simp [requestCpuReset_mem_arbitrate, setFlag] at hreq
  · obtain ⟨-, -, ⟨-, rfl⟩ | ⟨-, rfl⟩⟩ := clear_next h <;> simp [requestCpuReset_mem_arbitrate, clearFlag] at hreq
  · exact absurd hreq (push_effect h).noRequest
  · cases h
    simp [powerOn, fullReset_por_eq, requestCpuReset_not_mem_arbEvents] at hreq
  · cases hagent
  · cases hagent

/-- In Stage2 a write commits under its whole write mask (R104, R105). -/
theorem writtenWord_stage2 {s : State} (hc : wellFormedConfig s.cfg = true) (hu : s.unlock = .stage2) {w : Width}
    {a : Word} (hcont : a.toNat % 4 + widthBytes w ≤ 4) (op : OpCode) (v : Word) (d : Descriptor) :
    writtenWord s w op a v d = applyMask d.wmask (candidate op (cell s d.base) v w (a.toNat % 4)) (cell s d.base) := by
  have hlane := laneOf_toNat hc a
  rw [writtenWord, committedWord_eq _ _ _ _ _ _ (by rwa [hlane]), hlane, if_pos hu]
  cases op <;> rfl

/-- Settles O32: only a bus write asks, and it asks when the word it would commit in Stage2 is a trigger. -/
theorem cpuResetNeedsTheUnlock : Obligations.CpuResetNeedsTheUnlock := by
  intro i s t hc hagent hrun hreq
  obtain ⟨w, op, a, v, hf, hwrite⟩ := busWrite_of_requestCpuReset hagent hrun hreq
  obtain ⟨hr, hcont, -⟩ := busWrite_next hwrite
  rw [contained_laneOf hc] at hcont
  obtain ⟨d, op', hl, hp, hreset⟩ := resetWrite_of_requestCpuReset hwrite hreq
  have ⟨_, hu, _⟩ := hreset
  refine ⟨w, op, a, v, d, op', hf, hr, hcont, hl, hp, ?_⟩
  rw [writtenWord_stage2 hc hu hcont] at hreset
  cases op' <;> exact hreset

/-! ### What a reset leaves (R32, R221) -/

/-- After either reset every cell but STAT's reads as the power-on table. -/
theorem cell_fullReset {s : State} (hc : wellFormedConfig s.cfg = true) (k : ResetKind) {o : Word}
    (ho : o ≠ s.cfg.statOff) : cell (fullReset k s) o = powerOnValue s.cfg o := by
  have hmem : (fullReset k s).mem =
      writeMemory (patternMemory s.cfg) s.cfg.statOff.toNat (statWord s.cfg (scan (clearForReset s))) := by
    cases k with
    | por => rw [fullReset_por_eq]
    | soft => rw [fullReset_soft_eq]
  rw [cell, hmem, readMemory_writeMemory (patternMemory_wf _), if_neg fun h => ho (BitVec.eq_of_toNat_eq h),
    patternMemory_read hc]

/-- The state after a write that resets the block: the hook, the reset and the answer; the word is not committed (R154). -/
def resettingWrite (s : State) (d : Descriptor) (new : Word) : State :=
  respond (fullReset .soft { openTransaction s with
    events := hookEvents d.whook fun h => .writeHook h d.base (cell s d.base) new }) .okWrite

/-- What it changes: the registers, the unlock state, the count, the latched level and the outputs. -/
theorem resettingWrite_eq (s : State) (d : Descriptor) (new : Word) :
    resettingWrite s d new =
      { s with
        mem := writeMemory (patternMemory s.cfg) s.cfg.statOff.toNat (statWord s.cfg (scan (clearForReset s)))
        unlock := .locked
        coreIpl := signalled (scan (clearForReset s))
        arbCount := s.arbCount + 1
        response := .okWrite
        events := hookEvents d.whook (fun h => .writeHook h d.base (cell s d.base) new) ++
          [.periphReset, .requestCpuReset] ++ arbEvents 0#3 (scan (clearForReset s)) } := by
  have hscan : ∀ b : State, b.cfg = s.cfg → scan (clearForReset b) = scan (clearForReset s) :=
    fun b hb => scan_congr hb (by simp [hb])
  rw [resettingWrite, fullReset_soft_eq, hscan _ rfl]
  rfl

/-- The reset relocks, counts its arbitration, tells the peripherals and leaves the ports. -/
theorem resettingWrite_frame (s : State) (d : Descriptor) (new : Word) :
    samePorts s (resettingWrite s d new) ∧ (resettingWrite s d new).unlock = .locked ∧
      (resettingWrite s d new).arbCount = s.arbCount + 1 ∧ Event.periphReset ∈ (resettingWrite s d new).events := by
  rw [resettingWrite_eq]
  exact ⟨⟨rfl, rfl, rfl, rfl⟩, rfl, rfl, by simp⟩

/-- The request is emitted once: neither the hook nor the arbitration emits it (R154). -/
theorem count_requestCpuReset_resettingWrite (s : State) (d : Descriptor) (new : Word) :
    (resettingWrite s d new).events.count .requestCpuReset = 1 := by
  rw [resettingWrite_eq]
  simp [List.count_append, List.count_eq_zero.mpr (requestCpuReset_not_mem_writeHook _ _ _ _),
    List.count_eq_zero.mpr (requestCpuReset_not_mem_arbEvents _ _)]

theorem cell_resettingWrite {s : State} (hc : wellFormedConfig s.cfg = true) (d : Descriptor) (new : Word) {o : Word}
    (ho : o ≠ s.cfg.statOff) : cell (resettingWrite s d new) o = powerOnValue s.cfg o :=
  cell_fullReset (s := { openTransaction s with events := _ }) hc .soft ho

/-- The arbitration that ends the reset publishes and latches what the reset registers give (R221). -/
theorem published_resettingWrite {s : State} (hc : wellFormedConfig s.cfg = true) (d : Descriptor) (new : Word) :
    cell (resettingWrite s d new) s.cfg.statOff = statWord s.cfg (scan (resettingWrite s d new)) ∧
      (resettingWrite s d new).coreIpl = signalled (scan (resettingWrite s d new)) := by
  have ⟨⟨hcfg, _⟩, _⟩ := resettingWrite_frame s d new
  have hreset := fullReset_invariant .soft (s := { openTransaction s with
    events := hookEvents d.whook fun h => .writeHook h d.base (cell s d.base) new }) hc
  obtain ⟨-, hstat, hipl⟩ := (invariant_iff (resettingWrite s d new)).mp (invariant_congr rfl rfl rfl hreset)
  exact ⟨hcfg ▸ hstat, hipl⟩

/-! ### Writes to RSWRST (R154) -/

theorem cell_quietWrite {s : State} (hm : memoryWf s.mem) (d : Descriptor) (new o : Word) :
    cell (quietWrite s d new) o = if o = d.base then new else cell s o :=
  cell_setCell hm d.base o new

/-- RSWRST is writable, all its writable bits are protected, and the trigger bits are among them (R17). -/
theorem rswrst_register {c : Config} (hc : wellFormedConfig c = true) {d : Descriptor} (hd : d ∈ c.descTable)
    (hr : d.role = .rswrst) :
    d.policy ≠ .ro ∧ d.protmask = d.wmask ∧ d.wmask &&& c.resetTriggerMask = c.resetTriggerMask := by
  have ⟨_, _, _, hrole⟩ := wf_descriptor hc hd
  simp only [roleOk, hr, Bool.and_eq_true, Bool.or_eq_true, beq_iff_eq] at hrole
  obtain ⟨⟨⟨-, hpolicy⟩, hprot⟩, htrigger⟩ := hrole
  refine ⟨?_, hprot, htrigger⟩
  obtain hp | hp := hpolicy <;> simp [hp]

/-- A write to RSWRST relocks (R150, R152). -/
theorem nextUnlock_rswrst {d : Descriptor} (hr : d.role = .rswrst) (c : Config) (u : Unlock) (new : Word) :
    nextUnlock c u d new = .locked :=
  nextUnlock_of_isProtected (by simp [hr]) ((isProtected_iff d).mpr (Or.inl hr)) c u new

section Performed
variable {i : Instr} {s : State} {w : Width} {op : OpCode} {a v : Word} {d : Descriptor}

namespace PerformedWrite

theorem exec_resetting (h : PerformedWrite i s w op a v d) (hn : resetWrite s d (writtenWord s w op a v d)) :
    exec i s = .next (resettingWrite s d (writtenWord s w op a v d)) := by
  rw [h.exec_eq, finishWrite_reset (s := openTransaction s) hn]
  rfl

/-- Outside Stage2 no bit of RSWRST is writable: the write commits the word it found (R104, R154). -/
theorem writtenWord_rswrst_kept (h : PerformedWrite i s w op a v d) (hr : d.role = .rswrst) (hu : s.unlock ≠ .stage2) :
    writtenWord s w op a v d = cell s d.base := by
  obtain ⟨-, hprot, -⟩ := rswrst_register h.config h.mem_table hr
  rw [h.writtenWord_eq, if_neg hu, hprot, BitVec.and_not_self]
  simp [applyMask, and_fullMask]

end PerformedWrite
end Performed

/-- Settles O31: the write triggers, or it commits; outside Stage2 what it commits is the word it found. -/
theorem resetTriggerRegister : Obligations.ResetTriggerRegister := by
  intro i s w op a v d hf hr hc hm hcont hl hrole old m cand new
  obtain ⟨hp, -⟩ := rswrst_register hc (mem_of_busLookup hl) hrole
  have h : PerformedWrite i s w op a v d := ⟨⟨_, hf⟩, hr, hc, hm, hcont, hl, hp⟩
  have hnew : s.unlock = .stage2 → writtenWord s w op a v d = new := by
    intro hu
    rw [writtenWord_stage2 hc hu hcont]
    cases op <;> rfl
  by_cases hreset : resetWrite s d (writtenWord s w op a v d)
  · obtain ⟨-, hu, htrigger⟩ := hreset
    obtain ⟨hports, hlocked, hcount, hperiph⟩ := resettingWrite_frame s d (writtenWord s w op a v d)
    obtain ⟨hstat, hipl⟩ := published_resettingWrite hc d (writtenWord s w op a v d)
    have hcells := fun o => cell_resettingWrite hc d (writtenWord s w op a v d) (o := o)
    have hrequest := count_requestCpuReset_resettingWrite s d (writtenWord s w op a v d)
    exact ⟨_, h.exec_resetting ⟨hrole, hu, htrigger⟩, rfl, hlocked, hports, fun hnot => absurd hu hnot,
      fun _ hzero => absurd (hnew hu ▸ hzero) htrigger,
      fun _ _ => ⟨hcells, hstat, hipl, hrequest, hperiph, hcount⟩⟩
  · have hnone := requestCpuReset_not_mem_writeHook d.whook d.base old (writtenWord s w op a v d)
    have hrun := h.exec_quiet (by simp [hrole, isInterruptRole]) hreset
    refine ⟨_, hrun, rfl, nextUnlock_rswrst hrole _ _ _, ⟨rfl, rfl, rfl, rfl⟩,
      fun hu => ⟨fun o => ?_, rfl, rfl, hnone⟩, fun hu _ => ⟨fun o => ?_, rfl, rfl, hnone⟩,
      fun hu htrigger => absurd ⟨hrole, hu, hnew hu ▸ htrigger⟩ hreset⟩
    · rw [cell_quietWrite hm, h.writtenWord_rswrst_kept hrole hu]
      split
      · next ho => rw [ho]
      · rfl
    · rw [cell_quietWrite hm, hnew hu]

/-! ### The software reset sequence (R157, R223) -/

/-- A 4-byte write to the base of a register that is not read-only is performed. -/
theorem performedWrite_wrW_base {s : State} (hr : s.halted = false) (hc : wellFormedConfig s.cfg = true)
    (hm : memoryWf s.mem) {d : Descriptor} (hd : d ∈ s.cfg.descTable) (hp : d.policy ≠ .ro) (v : Word) :
    PerformedWrite (.wrW d.base v) s .word .assign d.base v d := by
  obtain ⟨halign, -⟩ := base_aligned hc hd
  obtain ⟨hl, -⟩ := base_byte_address hc hd (a := d.base) (k := 0) (by omega) (by simp)
  exact ⟨⟨_, rfl⟩, hr, hc, hm, by simp [halign, widthBytes], hl, hp⟩

/-- A 4-byte assign's candidate is the value: it covers every lane (R102). -/
theorem candidate_assign_word (old v : Word) (k : Nat) : candidate .assign old v .word k = v := by
  have hmask : lanesMask .word k = BitVec.allOnes 32 := rfl
  simp [candidate, laneOperand, hmask]

/-- KEY is a read-write register, every bit writable and none protected (R17). -/
theorem key_register {c : Config} (hc : wellFormedConfig c = true) {d : Descriptor} (hd : d ∈ c.descTable)
    (hk : d.role = .key) : d.policy ≠ .ro ∧ d.wmask = BitVec.allOnes 32 ∧ d.protmask = 0#32 := by
  have ⟨_, _, _, hrole⟩ := wf_descriptor hc hd
  simp only [roleOk, hk, Bool.and_eq_true, beq_iff_eq] at hrole
  obtain ⟨⟨⟨⟨⟨-, hpolicy⟩, hwmask⟩, hprot⟩, -⟩, -⟩ := hrole
  exact ⟨by simp [hpolicy], hwmask, hprot⟩

/-- A 4-byte write to KEY commits its value, whatever the unlock state (R150). -/
theorem exec_wrW_key {s : State} (hr : s.halted = false) (hc : wellFormedConfig s.cfg = true) (hm : memoryWf s.mem)
    {d : Descriptor} (hd : d ∈ s.cfg.descTable) (hk : d.role = .key) (v : Word) :
    exec (.wrW d.base v) s = .next (quietWrite s d v) := by
  obtain ⟨hp, hwmask, hprot⟩ := key_register hc hd hk
  have h := performedWrite_wrW_base hr hc hm hd hp v
  have hword : writtenWord s .word .assign d.base v d = v := by
    rw [h.writtenWord_eq, candidate_assign_word]
    simp [hwmask, hprot, applyMask, and_fullMask]
  have hrun := h.exec_quiet (by simp [hk, isInterruptRole]) fun hn => by simp [resetWrite, hk] at hn
  rwa [hword] at hrun

/-- It moves the unlock state by the table of R151. -/
theorem quietWrite_key_unlock {d : Descriptor} (hk : d.role = .key) (s : State) (v : Word) :
    (quietWrite s d v).unlock = keyTransition s.cfg s.unlock v :=
  nextUnlock_key hk s.cfg s.unlock v

/-- In Stage2 a 4-byte write of the trigger mask to RSWRST resets the block: the trigger bits are writable (R17, R154). -/
theorem exec_wrW_rswrst {s : State} (hr : s.halted = false) (hc : wellFormedConfig s.cfg = true) (hm : memoryWf s.mem)
    {d : Descriptor} (hd : d ∈ s.cfg.descTable) (hrole : d.role = .rswrst) (hu : s.unlock = .stage2)
    (hmask : s.cfg.resetTriggerMask ≠ 0#32) :
    ∃ new, exec (.wrW d.base s.cfg.resetTriggerMask) s = .next (resettingWrite s d new) := by
  obtain ⟨hp, -, htrigger⟩ := rswrst_register hc hd hrole
  have h := performedWrite_wrW_base hr hc hm hd hp s.cfg.resetTriggerMask
  refine ⟨_, h.exec_resetting ⟨hrole, hu, ?_⟩⟩
  rw [h.writtenWord_eq, candidate_assign_word, if_pos hu, applyMask_and_of_covered htrigger, BitVec.and_self]
  exact hmask

theorem count_requestCpuReset_quietWrite (s : State) (d : Descriptor) (new : Word) :
    (quietWrite s d new).events.count .requestCpuReset = 0 :=
  List.count_eq_zero.mpr (requestCpuReset_not_mem_writeHook _ _ _ _)

/-- Settles O33: MAGIC1 and MAGIC2 are two quiet writes to KEY, through Stage1 to Stage2, where the trigger resets. -/
theorem softwareResetSequence : Obligations.SoftwareResetSequence := by
  intro s hc hm hr hu hmask
  obtain ⟨key, hkey, hkrole, hkbase⟩ := exists_key hc
  obtain ⟨rst, hrst, hrrole, hrbase⟩ := exists_rswrst hc
  rw [← hkbase, ← hrbase]
  set t1 := quietWrite s key s.cfg.magic1 with ht1
  set t2 := quietWrite t1 key s.cfg.magic2 with ht2
  have hm1 : memoryWf t1.mem := writeMemory_wf hm _ _
  have hm2 : memoryWf t2.mem := writeMemory_wf hm1 _ _
  have hu1 : t1.unlock = .stage1 := by simp [ht1, quietWrite_key_unlock hkrole, hu, keyTransition]
  have hu2 : t2.unlock = .stage2 := by
    rw [ht2, quietWrite_key_unlock hkrole, hu1]
    exact if_pos rfl
  have hrun1 : exec (.wrW key.base s.cfg.magic1) s = .next t1 := exec_wrW_key hr hc hm hkey hkrole _
  have hrun2 : exec (.wrW key.base s.cfg.magic2) t1 = .next t2 := exec_wrW_key (s := t1) hr hc hm1 hkey hkrole _
  obtain ⟨new, hrun3⟩ := exec_wrW_rswrst (s := t2) hr hc hm2 hrst hrrole hu2 hmask
  obtain ⟨⟨-, hhalted, -, -⟩, hlocked, -, -⟩ := resettingWrite_frame t2 rst new
  refine ⟨t1, t2, _, hrun1, hu1, hrun2, hu2, hrun3, hlocked, hhalted.trans hr,
    fun o => cell_resettingWrite (s := t2) hc rst new, ?_⟩
  rw [List.count_append, List.count_append, count_requestCpuReset_resettingWrite, count_requestCpuReset_quietWrite,
    count_requestCpuReset_quietWrite]

end Sys2Proof.Machine
end

section
/-! The peripheral port's PUSH (spec/44_peripheral_port.md R171), read forward: the state it answers on a PLAIN or OFF
base offset, and its refusal of every other target. -/

namespace Sys2Proof.Machine

theorem pushable_iff (r : Role) : pushable r = true ↔ r = .plain ∨ ∃ k, r = .off k := by
  cases r <;> simp [pushable]

theorem exec_push (o v m : Word) (s : State) : exec (.push o v m) s = execPush o v m s := rfl

/-- A running push to the base offset of a pushable register writes the masked update to its cell. -/
theorem exec_push_of_pushable {s : State} {o : Word} {d : Descriptor} (hr : s.halted = false)
    (hl : lookup s.cfg o = some (d, .assign)) (hp : pushable d.role = true) (v m : Word) :
    exec (.push o v m) s = .next (setCell (openTransaction s) o (pushWord (cell s o) v m)) := by
  have hcell : cell (openTransaction s) o = cell s o := rfl
  simp only [exec_push, execPush, whenRunning_running hr, openTransaction_cfg, hl, hp, if_true, hcell]

/-- A running push anywhere else is refused: an offset no descriptor claims, an alias view, or a base offset of another
role. -/
theorem exec_push_refused {s : State} {o : Word} (hr : s.halted = false)
    (hno : ∀ d, lookup s.cfg o = some (d, .assign) → pushable d.role = false) (v m : Word) :
    exec (.push o v m) s = .refused .pushTarget := by
  simp only [exec_push, execPush, whenRunning_running hr, openTransaction_cfg]
  split
  case h_1 d hl => rw [hno d hl, if_neg Bool.false_ne_true]
  all_goals rfl

/-- Settles O44: PUSH is one write to the cell of an opened transaction, or its refusal, by the role of the target. -/
theorem pushUpdatesTheCell : Obligations.PushUpdatesTheCell := by
  intro s off v m hr hm
  constructor
  · intro d hl hrole
    exact ⟨_, exec_push_of_pushable hr hl ((pushable_iff d.role).mpr hrole) v m,
      fun o => cell_setCell (s := openTransaction s) hm off o _, ⟨rfl, rfl, rfl, rfl⟩, rfl, rfl, rfl, rfl, rfl⟩
  · intro hno
    refine exec_push_refused hr (fun d hl => ?_) v m
    obtain ⟨hplain, hoff⟩ := hno d hl
    exact Bool.eq_false_iff.mpr fun hp => ((pushable_iff d.role).mp hp).elim hplain fun ⟨k, hk⟩ => hoff k hk

end Sys2Proof.Machine
end

section
/-! The fatal error of an unmapped bus access, and the way out of it (spec/60_exceptions.md R186,
spec/70_reset_and_hazards.md R220). -/

namespace Sys2Proof.Machine

/-- The fatal error of a fresh transaction: the report, the halt and the answer, and no other change (R186). -/
theorem raiseFatal_openTransaction (s : State) (a : Word) (dir : Dir) :
    raiseFatal (openTransaction s) a dir =
      { s with halted := true, response := .fatal, events := [.fatalUnsupportedRegister a dir] } := rfl

/-- A power-on reset runs from any state, halted or not, and leaves the block running (R220). -/
@[simp] theorem powerOn_halted (s : State) : (powerOn s).halted = false :=
  fullReset_halted .por _

/-- An access of either direction to a word no view claims: the third check's outcome, as a whole state. -/
theorem exec_unmapped {i : Instr} {s : State} {w : Width} {op : OpCode} {a : Word} {dir : Dir}
    (hi : isAccess i w op a dir) (hr : s.halted = false) (hc : wellFormedConfig s.cfg = true)
    (hcont : a.toNat % 4 + widthBytes w ≤ 4) (hl : busLookup s.cfg a = none) :
    exec i s = .next
      { s with halted := true, response := .fatal, events := [.fatalUnsupportedRegister a dir] } := by
  rw [access_unmapped hi hr hc hcont hl, raiseFatal_openTransaction]

/-- Settles O25: the third check's outcome for each direction, the stuck halted block, and POR as its way out. -/
theorem unsupportedRegisterHalts : Obligations.UnsupportedRegisterHalts := by
  intro s hc
  refine ⟨?read, ?write, ?stuck, ?wayOut⟩
  case read =>
    intro i w op a hf hr hcont hl
    exact exec_unmapped (Or.inl ⟨hf, rfl⟩) hr hc hcont hl
  case write =>
    intro i w op a v hf hr hcont hl
    exact exec_unmapped (Or.inr ⟨v, hf, rfl⟩) hr hc hcont hl
  case stuck => exact fun i hh hi => exec_halted hh hi
  case wayOut => exact ⟨powerOn s, rfl, powerOn_halted s⟩

end Sys2Proof.Machine
end

section
/-! The power-on reset and the full reset of both kinds (spec/70_reset_and_hazards.md R220, R221; spec/10_state.md R32): the
state a reset leaves, the order of its events, and POR as the power-on kind run from any state. -/

namespace Sys2Proof.Machine

/-! ### What both kinds of reset leave -/

/-- What a reset tells its outputs before the arbitration that ends it (R221 steps 5 and 6). -/
def resetEvents : ResetKind → List Event
  | .por => [.periphReset]
  | .soft => [.periphReset, .requestCpuReset]

/-- The pattern-initialized registers depend on the configuration alone, and so does what an arbitration finds in them. -/
theorem scan_clearForReset_congr {s t : State} (hcfg : s.cfg = t.cfg) :
    scan (clearForReset s) = scan (clearForReset t) :=
  scan_congr hcfg (by simp [hcfg])

/-- The arbitration that ends a reset latches what it finds in the pattern-initialized registers (R221). -/
theorem fullReset_coreIpl (k : ResetKind) (s : State) :
    (fullReset k s).coreIpl = signalled (scan (clearForReset s)) := by
  cases k with
  | por => rw [fullReset_por_eq]
  | soft => rw [fullReset_soft_eq]

/-- It publishes it over the pattern-initialized Register File (R221). -/
theorem fullReset_mem (k : ResetKind) (s : State) :
    (fullReset k s).mem =
      writeMemory (patternMemory s.cfg) s.cfg.statOff.toNat (statWord s.cfg (scan (clearForReset s))) := by
  cases k with
  | por => rw [fullReset_por_eq]
  | soft => rw [fullReset_soft_eq]

/-- Two resets under one configuration end in the same cells and level, whatever their kinds and the states before. -/
theorem fullReset_registers_congr {s t : State} (hcfg : s.cfg = t.cfg) (j k : ResetKind) :
    (fullReset j s).mem = (fullReset k t).mem ∧ (fullReset j s).coreIpl = (fullReset k t).coreIpl := by
  rw [fullReset_mem, fullReset_mem, fullReset_coreIpl, fullReset_coreIpl, scan_clearForReset_congr hcfg, hcfg]
  exact ⟨rfl, rfl⟩

@[simp] theorem fullReset_unlock (k : ResetKind) (s : State) : (fullReset k s).unlock = .locked := by
  cases k with
  | por => rw [fullReset_por_eq]
  | soft => rw [fullReset_soft_eq]

@[simp] theorem fullReset_response (k : ResetKind) (s : State) : (fullReset k s).response = s.response := by
  cases k with
  | por => rw [fullReset_por_eq]
  | soft => rw [fullReset_soft_eq]

/-- The published word is in no register the arbitration reads: a scan after the reset finds what the reset found. -/
theorem scan_fullReset {s : State} (hc : wellFormedConfig s.cfg = true) (k : ResetKind) :
    scan (fullReset k s) = scan (clearForReset s) := by
  have hcfg : (fullReset k s).cfg = (arbitrate (clearForReset s)).cfg := by simp
  have hmem : (fullReset k s).mem = (arbitrate (clearForReset s)).mem := by
    rw [fullReset_mem, arbitrate_eq]
    rfl
  rw [scan_congr hcfg hmem]
  exact scan_arbitrate (s := clearForReset s) hc (patternMemory_wf _)

/-- The events of a reset: its own by kind, then those of an arbitration over the level 0 it has latched (R221). -/
theorem fullReset_events {s : State} (hc : wellFormedConfig s.cfg = true) (k : ResetKind) :
    (fullReset k s).events = s.events ++ resetEvents k ++ arbEvents 0#3 (scan (fullReset k s)) := by
  rw [scan_fullReset hc]
  cases k with
  | por =>
    rw [fullReset_por_eq]
    rfl
  | soft =>
    rw [fullReset_soft_eq]
    rfl

/-- STAT and the level after a reset are those of its own registers (R31, R221). -/
theorem published_fullReset {s : State} (hc : wellFormedConfig s.cfg = true) (k : ResetKind) :
    cell (fullReset k s) s.cfg.statOff = statWord s.cfg (scan (fullReset k s)) ∧
      (fullReset k s).coreIpl = signalled (scan (fullReset k s)) := by
  obtain ⟨-, hstat, hlevel⟩ := (invariant_iff _).mp (fullReset_invariant k hc)
  exact ⟨(fullReset_keeps_inputs k s).1 ▸ hstat, hlevel⟩

/-! ### The two operations -/

/-- The opened transaction of a block taken out of its halt (R220). -/
def restarted (s : State) : State :=
  { openTransaction s with halted := false }

theorem powerOn_eq (s : State) : powerOn s = fullReset .por (restarted s) := rfl

theorem exec_por (s : State) : exec .por s = .next (powerOn s) := rfl

/-- While running, FULLRESET is the reset of an opened transaction (R221). -/
theorem exec_fullreset {s : State} (hr : s.halted = false) (k : ResetKind) :
    exec (.fullreset k) s = .next (fullReset k (openTransaction s)) :=
  whenRunning_running hr fun b => .next (fullReset k b)

/-- Settles O45: POR is the power-on kind of the reset, run on an opened transaction of the block taken out of its halt;
nothing else runs while halted. -/
theorem powerOnReset : Obligations.PowerOnReset := by
  intro s hc
  obtain ⟨-, hwf, -⟩ := powerOn_invariant hc
  obtain ⟨hcfg, hinbox⟩ := powerOn_keeps_inputs s
  obtain ⟨hstat, hlevel⟩ := published_fullReset (s := restarted s) hc .por
  exact ⟨powerOn s, exec_por s, hcfg, hinbox, powerOn_halted s, fullReset_unlock _ _, fullReset_response _ _, hwf,
    fun o => cell_fullReset (s := restarted s) hc .por, hstat, hlevel,
    fullReset_events (s := restarted s) hc .por, fun hh i => exec_halted hh⟩

/-- Settles O46: POR and both kinds of FULLRESET are resets under one configuration, so they agree in what a reset makes of
the registers; the kinds differ in their events and in the count. -/
theorem fullResetSequence : Obligations.FullResetSequence := by
  intro s hc hr
  have hkinds : ∀ k, (fullReset k (openTransaction s)).mem = (powerOn s).mem ∧
      (fullReset k (openTransaction s)).coreIpl = (powerOn s).coreIpl :=
    fun k => powerOn_eq s ▸ fullReset_registers_congr (s := openTransaction s) (t := restarted s) rfl k .por
  obtain ⟨hmem1, hlevel1⟩ := hkinds .por
  obtain ⟨hmem2, hlevel2⟩ := hkinds .soft
  obtain ⟨hstat, hlevel⟩ := published_fullReset (s := openTransaction s) hc .por
  obtain ⟨hcfg1, hinbox1⟩ := fullReset_keeps_inputs .por (openTransaction s)
  obtain ⟨hcfg2, hinbox2⟩ := fullReset_keeps_inputs .soft (openTransaction s)
  have hrun : ∀ k, (fullReset k (openTransaction s)).halted = false := fun k => (fullReset_halted k _).trans hr
  obtain ⟨hdraws, hcount⟩ : (fullReset .soft (openTransaction s)).draws = s.draws ∧
      (fullReset .soft (openTransaction s)).arbCount = s.arbCount + 1 := by simp [fullReset_soft_eq]
  exact ⟨powerOn s, _, _, exec_por s, exec_fullreset hr .por, exec_fullreset hr .soft,
    fun o => cell_fullReset (s := openTransaction s) hc .por, hstat, hlevel,
    hmem1, hmem2, fullReset_unlock _ _, fullReset_unlock _ _, fullReset_unlock _ _, hlevel1, hlevel2,
    powerOn_halted s, hrun .por, hrun .soft, hcfg1, hcfg2, hinbox1, hinbox2, hdraws, hcount,
    fullReset_response _ _, fullReset_response _ _,
    fullReset_events (s := openTransaction s) hc .por, fullReset_events (s := openTransaction s) hc .soft⟩

end Sys2Proof.Machine
end
